-- ==== Sys2Proof/Word.lean ====
section
/-! DEFINITION. The machine's plain values: 32-bit command words and line levels. A frame-buffer cell
holds a natural number (R32). -/

namespace Sys2Proof

/-- A word of the command stream (R60, R90). -/
abbrev Word := BitVec 32

/-- A line level (R20): `true` is 1 ("high", "asserted"), `false` is 0 ("low"). -/
abbrev Level := Bool

end Sys2Proof
end

