-- ==== Sys2Proof/Config.lean ====
section
/-! DEFINITION. The parameters of a run (R6 to R8, R36) as the record `Build`, and the free values of the environment:
when the GCLK generator steps and what the chain drives on SDO. -/

namespace Sys2Proof

namespace Config

/-- FREE VALUE (log entry 1): how many points pass without a promised generator step before the i-th promised one. No
body: nothing can be proved of a value of it. -/
opaque gclkGap : Nat → Nat

/-- FREE VALUE (log entry 1): how many steps the GCLK generator takes at the k-th point at which it may move, beside the
promised one (U8: any order). -/
opaque gclkExtra : Nat → Nat

/-- FREE VALUE (log entry 2): the level the chain drives on SDO at the k-th such point (U14: any value). -/
opaque sdoLevel : Nat → Level

end Config

/-- FB_MAP (R8, R62) as plain data: the default linear map, or a table whose entry `d*NCH + c` is the cell that feeds
channel `c` of device `d` (log entry 6). -/
inductive FbMap where
  | linear
  | table (cells : List Nat)
deriving DecidableEq, Repr

/-- The build parameters of a run, those R36 lists, with the values of R6 and the defaults of R8 (log entry 5). They are
no state: no command writes them. `Build.wellFormed` holds the values and domains R6 to R8 give them. -/
structure Build where
  /-- ROWS (R7) -/
  rows : Nat
  /-- COLS (R7) -/
  cols : Nat
  /-- NCH: channels per device (R6, R28) -/
  nch : Nat := 16
  /-- SLOTS: channel slots per pixel, R, G, B, W (R6) -/
  slots : Nat := 4
  /-- CELL_BITS: the width of a frame-buffer cell (R8) -/
  cellBits : Nat := 16
  /-- LATCH_PULSES: DCLK pulses under LE high in a latch (R6) -/
  latchPulses : Nat := 1
  /-- COMMIT_PULSES: DCLK pulses under LE high in a commit (R6) -/
  commitPulses : Nat := 3
  /-- T_BIT_NS, a lower bound in nanoseconds (R6) -/
  tBitNs : Nat := 1000
  /-- T_LE_NS, a lower bound in nanoseconds (R6) -/
  tLeNs : Nat := 2000
  /-- GCLK_HZ: target frequency of the grayscale clock (R6) -/
  gclkHz : Nat := 800000
  /-- GCLK_DUTY_PCT: duty cycle of the grayscale clock, per cent (R6) -/
  gclkDutyPct : Nat := 50
  /-- CH_ORDER (R8): entry `j` is the channel index shifted `j`-th within a device. -/
  chOrder : List Nat := [0, 1, 2, 3, 4, 5, 6, 7, 8, 9, 10, 11, 12, 13, 14, 15]
  /-- FB_MAP (R8, R62) -/
  fbMap : FbMap := .linear
  /-- PIN_MAP (R8): the physical pin of each logical line in the order of R20, opaque; no rule reads it. -/
  pinMap : List Nat := []
deriving DecidableEq, Repr

/-- The values of R6 and the defaults of R8 on the 2 x 2 grid of the spec's own vectors (95_test_vectors.md part 2.6).
DESIGN CHOICE (log entry 5, unsafe): the spec gives ROWS and COLS no value. -/
def Build.default : Build := { rows := 2, cols := 2 }

end Sys2Proof
end

