-- ==== Sys2Proof/Syntax.lean ====
section
/-! DEFINITION. The abstract commands of R105, one constructor per row of spec/opcode_table.json. The type of each
operand is the largest domain the encoding can carry, as R105 gives it; narrower legal domains are entry checks (R101). -/

namespace Sys2Proof

inductive Instr where
  /-- INIT(ndev, width), `initialize(config)` (R121). -/
  | init (ndev : BitVec 16) (width : BitVec 8)
  /-- SHIFT_BIT(bit) (R132). -/
  | shiftBit (bit : BitVec 1)
  /-- SHIFT_VALUE(value, width) (R134). -/
  | shiftValue (value : BitVec 16) (width : BitVec 8)
  /-- LATCH (R142). -/
  | latch
  /-- COMMIT (R143). -/
  | commit
  /-- CLEAR of the Bus Driver (R151). -/
  | clear
  /-- SEND_FRAME (R154). -/
  | sendFrame
  /-- SET_UNIFORM(value) (R156). -/
  | setUniform (value : BitVec 16)
  /-- FB_SET_PIXEL(row, col, r, g, b, w) (R166). -/
  | fbSetPixel (row col : BitVec 12) (r g b w : BitVec 16)
  /-- FB_FILL(r, g, b, w) (R167). -/
  | fbFill (r g b w : BitVec 16)
  /-- FB_CLEAR of the Frame Buffer (R168). -/
  | fbClear
deriving DecidableEq, Repr

end Sys2Proof
end

