-- ==== Sys2Proof/WellFormed.lean ====
section
/-! DEFINITION. What is checked before a run. A single command has nothing left to check: R105 gives each operand the
largest domain its field can carry, and `Instr` types it so. The build parameters are checked here (R6 to R8); a program
is checked by `Sys2Proof.admitted` in Decode.lean (R76), a configuration by INIT itself (R122). -/

namespace Sys2Proof

/-- ROWS and COLS are 1..4096 each (R7). -/
def Build.gridOk (b : Build) : Bool :=
  (1 ≤ b.rows && b.rows ≤ 4096) && (1 ≤ b.cols && b.cols ≤ 4096)

/-- The shapes the document fixes (R6) and the cell width R32, R63 and R66 rest on: NCH = 16, SLOTS = 4, CELL_BITS = 16,
LATCH_PULSES = 1, COMMIT_PULSES = 3. The four timing parameters are arguments with a default (D25) and may have any
value. -/
def Build.shapeOk (b : Build) : Bool :=
  b.nch == 16 && b.slots == 4 && b.cellBits == 16 && b.latchPulses == 1 && b.commitPulses == 3

/-- CH_ORDER is a bijection on 0..NCH-1 (R8): NCH entries below NCH, pairwise different. -/
def Build.chOrderOk (b : Build) : Bool :=
  b.chOrder.length == b.nch && b.chOrder.all (fun c => decide (c < b.nch)) && decide b.chOrder.Nodup

/-- The values and domains R6 to R8 give the build parameters. FB_MAP is any function; INIT checks where it points
(R122). -/
def Build.wellFormed (b : Build) : Bool :=
  b.gridOk && b.shapeOk && b.chOrderOk

end Sys2Proof
end

