-- ==== Sys2Proof/Decode.lean ====
section
/-! DEFINITION. The transport of 30_encoding.md: decoding command words (R98), the opcode table (R92, R98), the encoder
(R103), and the admission of a program (R76). The spec has words and no bytes (R63), so both work on lists of words. -/

namespace Sys2Proof

/-- What R98 reads at the head of a word list. -/
inductive Decoded where
  /-- No word is there: `pc` equals the length of `prog` (R76). -/
  | none
  /-- An illegal first word (R100). -/
  | illegal (w0 : Word)
  /-- The command lacks trailing words (R76, U19). -/
  | cutShort
  /-- A command, and the words after it. -/
  | command (i : Instr) (rest : List Word)
deriving DecidableEq, Repr

/-- `OP`, the top eight bits of the first word (R90). -/
def opcodeOf (w0 : Word) : BitVec 8 := w0.extractLsb' 24 8

/-- Bits 23:16 of the first word: WIDTH of formats I and V (R94, R96). -/
def fieldWidth (w0 : Word) : BitVec 8 := w0.extractLsb' 16 8

/-- The high half of a word, bits 31:16 (R97). -/
def hiHalf (w : Word) : BitVec 16 := w.extractLsb' 16 16

/-- The low half of a word, bits 15:0: NDEV, VALUE, G or W (R94, R96, R97). -/
def loHalf (w : Word) : BitVec 16 := w.extractLsb' 0 16

/-- ROW of format P, bits 23:12 (R97). -/
def fieldRow (w0 : Word) : BitVec 12 := w0.extractLsb' 12 12

/-- COL of format P, bits 11:0 (R97). -/
def fieldCol (w0 : Word) : BitVec 12 := w0.extractLsb' 0 12

/-- The must-be-zero field of format Z and of format C, bits 23:0 (R93, R97). -/
def fieldLow24 (w0 : Word) : BitVec 24 := w0.extractLsb' 0 24

/-- The must-be-zero field of format B, bits 23:1 (R95). -/
def fieldLow24But0 (w0 : Word) : BitVec 23 := w0.extractLsb' 1 23

/-- A format-Z command: its 24 low bits must be zero (R93). -/
def decodeZ (w0 : Word) (i : Instr) (rest : List Word) : Decoded :=
  if fieldLow24 w0 = 0#24 then .command i rest else .illegal w0

/-- A first word and the words after it, in the order of R98: undefined opcodes first, then missing trailing words,
then the must-be-zero fields. -/
def decodeWord (w0 : Word) (rest : List Word) : Decoded :=
  if opcodeOf w0 = 0x01#8 then .command (.init (loHalf w0) (fieldWidth w0)) rest
  else if opcodeOf w0 = 0x02#8 then
    if fieldLow24But0 w0 = 0#23 then .command (.shiftBit (w0.extractLsb' 0 1)) rest else .illegal w0
  else if opcodeOf w0 = 0x03#8 then .command (.shiftValue (loHalf w0) (fieldWidth w0)) rest
  else if opcodeOf w0 = 0x04#8 then decodeZ w0 .latch rest
  else if opcodeOf w0 = 0x05#8 then decodeZ w0 .commit rest
  else if opcodeOf w0 = 0x06#8 then decodeZ w0 .clear rest
  else if opcodeOf w0 = 0x07#8 then decodeZ w0 .sendFrame rest
  else if opcodeOf w0 = 0x08#8 then
    if fieldWidth w0 = 0#8 then .command (.setUniform (loHalf w0)) rest else .illegal w0
  else if opcodeOf w0 = 0x10#8 then
    match rest with
    | w1 :: w2 :: rest' =>
      .command (.fbSetPixel (fieldRow w0) (fieldCol w0) (hiHalf w1) (loHalf w1) (hiHalf w2) (loHalf w2)) rest'
    | _ => .cutShort
  else if opcodeOf w0 = 0x11#8 then
    match rest with
    | w1 :: w2 :: rest' =>
      if fieldLow24 w0 = 0#24 then
        .command (.fbFill (hiHalf w1) (loHalf w1) (hiHalf w2) (loHalf w2)) rest'
      else .illegal w0
    | _ => .cutShort
  else if opcodeOf w0 = 0x12#8 then decodeZ w0 .fbClear rest
  else .illegal w0

/-- R98: total on any word list. -/
def decode : List Word → Decoded
  | [] => .none
  | w0 :: rest => decodeWord w0 rest

/-- One row of spec/opcode_table.json: a first word `w` selects it when `w & mask = match` (R98). -/
structure OpcodeRow where
  mnemonic : String
  pattern : Word
  mask : Word
  words : Nat
deriving DecidableEq, Repr

/-- spec/opcode_table.json, row by row. -/
def opcodeTable : List OpcodeRow :=
  [ ⟨"INIT", 0x01000000#32, 0xFF000000#32, 1⟩,
    ⟨"SHIFT_BIT", 0x02000000#32, 0xFFFFFFFE#32, 1⟩,
    ⟨"SHIFT_VALUE", 0x03000000#32, 0xFF000000#32, 1⟩,
    ⟨"LATCH", 0x04000000#32, 0xFFFFFFFF#32, 1⟩,
    ⟨"COMMIT", 0x05000000#32, 0xFFFFFFFF#32, 1⟩,
    ⟨"CLEAR", 0x06000000#32, 0xFFFFFFFF#32, 1⟩,
    ⟨"SEND_FRAME", 0x07000000#32, 0xFFFFFFFF#32, 1⟩,
    ⟨"SET_UNIFORM", 0x08000000#32, 0xFFFF0000#32, 1⟩,
    ⟨"FB_SET_PIXEL", 0x10000000#32, 0xFF000000#32, 3⟩,
    ⟨"FB_FILL", 0x11000000#32, 0xFFFFFFFF#32, 3⟩,
    ⟨"FB_CLEAR", 0x12000000#32, 0xFFFFFFFF#32, 1⟩ ]

/-- The row selects the first word `w` (R98). -/
def OpcodeRow.selects (r : OpcodeRow) (w : Word) : Bool := w &&& r.mask == r.pattern

/-- The mnemonic of a command (R92). -/
def Instr.mnemonic : Instr → String
  | .init _ _ => "INIT"
  | .shiftBit _ => "SHIFT_BIT"
  | .shiftValue _ _ => "SHIFT_VALUE"
  | .latch => "LATCH"
  | .commit => "COMMIT"
  | .clear => "CLEAR"
  | .sendFrame => "SEND_FRAME"
  | .setUniform _ => "SET_UNIFORM"
  | .fbSetPixel _ _ _ _ _ _ => "FB_SET_PIXEL"
  | .fbFill _ _ _ _ => "FB_FILL"
  | .fbClear => "FB_CLEAR"

/-- The opcode of a command (R92). -/
def Instr.opcode : Instr → BitVec 8
  | .init _ _ => 0x01
  | .shiftBit _ => 0x02
  | .shiftValue _ _ => 0x03
  | .latch => 0x04
  | .commit => 0x05
  | .clear => 0x06
  | .sendFrame => 0x07
  | .setUniform _ => 0x08
  | .fbSetPixel _ _ _ _ _ _ => 0x10
  | .fbFill _ _ _ _ => 0x11
  | .fbClear => 0x12

/-- The three mutators of the Frame Buffer, opcodes 0x10 to 0x12; the others are the Bus Driver's (R2, R92). -/
def Instr.isFrameBuffer : Instr → Bool
  | .init _ _ => false
  | .shiftBit _ => false
  | .shiftValue _ _ => false
  | .latch => false
  | .commit => false
  | .clear => false
  | .sendFrame => false
  | .setUniform _ => false
  | .fbSetPixel _ _ _ _ _ _ => true
  | .fbFill _ _ _ _ => true
  | .fbClear => true

/-- The length of a command in words (R91). -/
def Instr.words : Instr → Nat
  | .init _ _ => 1
  | .shiftBit _ => 1
  | .shiftValue _ _ => 1
  | .latch => 1
  | .commit => 1
  | .clear => 1
  | .sendFrame => 1
  | .setUniform _ => 1
  | .fbSetPixel _ _ _ _ _ _ => 3
  | .fbFill _ _ _ _ => 3
  | .fbClear => 1

/-- The first word of a command (R93 to R97, R103). -/
def Instr.firstWord : Instr → Word
  | .init ndev width => 0x01#8 ++ width ++ ndev
  | .shiftBit bit => 0x02#8 ++ 0#23 ++ bit
  | .shiftValue value width => 0x03#8 ++ width ++ value
  | .latch => 0x04#8 ++ 0#24
  | .commit => 0x05#8 ++ 0#24
  | .clear => 0x06#8 ++ 0#24
  | .sendFrame => 0x07#8 ++ 0#24
  | .setUniform value => 0x08#8 ++ 0#8 ++ value
  | .fbSetPixel row col _ _ _ _ => 0x10#8 ++ row ++ col
  | .fbFill _ _ _ _ => 0x11#8 ++ 0#24
  | .fbClear => 0x12#8 ++ 0#24

/-- The words after the first (R97): the colour of the two three-word commands. -/
def Instr.trailingWords : Instr → List Word
  | .init _ _ => []
  | .shiftBit _ => []
  | .shiftValue _ _ => []
  | .latch => []
  | .commit => []
  | .clear => []
  | .sendFrame => []
  | .setUniform _ => []
  | .fbSetPixel _ _ r g b w => [r ++ g, b ++ w]
  | .fbFill r g b w => [r ++ g, b ++ w]
  | .fbClear => []

/-- The words of a command (R103). Every command is well formed, so the encoder has no check. -/
def encode (i : Instr) : List Word := i.firstWord :: i.trailingWords

/-- The words of a command list, one command after the other. -/
def assemble (is : List Instr) : List Word := is.flatMap encode

/-- One line of the assembler syntax of R103, numbers in decimal. -/
def Instr.asm : Instr → String
  | .init ndev width => "INIT " ++ toString ndev.toNat ++ ", " ++ toString width.toNat
  | .shiftBit bit => "SHIFT_BIT " ++ toString bit.toNat
  | .shiftValue value width => "SHIFT_VALUE " ++ toString value.toNat ++ ", " ++ toString width.toNat
  | .latch => "LATCH"
  | .commit => "COMMIT"
  | .clear => "CLEAR"
  | .sendFrame => "SEND_FRAME"
  | .setUniform value => "SET_UNIFORM " ++ toString value.toNat
  | .fbSetPixel row col r g b w =>
    "FB_SET_PIXEL " ++ ", ".intercalate
      ([row.toNat, col.toNat, r.toNat, g.toNat, b.toNat, w.toNat].map toString)
  | .fbFill r g b w => "FB_FILL " ++ ", ".intercalate ([r.toNat, g.toNat, b.toNat, w.toNat].map toString)
  | .fbClear => "FB_CLEAR"

/-- `admittedFuel n ws`: walking the commands of `ws` (at most `n` of them) meets none that is cut short. The walk ends
at an illegal word, where a run would halt (log entry 10). -/
def admittedFuel : Nat → List Word → Bool
  | 0, _ => true
  | n + 1, ws =>
    match decode ws with
    | .none => true
    | .illegal _ => true
    | .cutShort => false
    | .command _ rest => admittedFuel n rest

/-- A program is admitted when its last command is not cut short (R76). A command has at least one word, so as many
commands as words is enough fuel. -/
def admitted (ws : List Word) : Bool := admittedFuel ws.length ws

/-- The three words, first word lowest, of the number `w` whose bits from `nbits` up are cleared: the longest command
has three words (R91). -/
def tableWords (nbits w : Nat) : List Word :=
  [BitVec.ofNat 32 (w % 2 ^ nbits), BitVec.ofNat 32 ((w % 2 ^ nbits) >>> 32), BitVec.ofNat 32 ((w % 2 ^ nbits) >>> 64)]

/-- The command the decoder reads from the words numbered as spec/opcode_table.json numbers their bits. -/
def decodeTableWord (nbits w : Nat) : Option Instr :=
  match decode (tableWords nbits w) with
  | .none => Option.none
  | .illegal _ => Option.none
  | .cutShort => Option.none
  | .command i _ => some i

end Sys2Proof
end

