-- ==== Sys2Proof/Machine/State.lean ====
section
/-! DEFINITION. The state of the machine as plain data (10_state.md), its stops, and its value after reset (R35). -/

namespace Sys2Proof.Machine

/-- The five logical lines (R20). -/
inductive Line where
  | sdi
  | dclk
  | gclk
  | le
  | sdo
deriving DecidableEq, Repr

/-- The direction of a line (R21); `input` is the spec's `in`. -/
inductive Dir where
  | unconfigured
  | out
  | input
deriving DecidableEq, Repr

/-- One value for each of the five lines (R20). -/
structure LineFile (α : Type) where
  sdi : α
  dclk : α
  gclk : α
  le : α
  sdo : α
deriving DecidableEq, Repr

/-- The causes of a contract violation (R208). -/
inductive Cause where
  | uninit
  | reinit
  | config
  | index
  | range
  | unwritten
  | illegal
deriving DecidableEq, Repr

/-- The line-level events of a trace (R33). -/
inductive Event where
  /-- `Dir(L, d)` -/
  | dir (l : Line) (d : Dir)
  /-- `Set(L, v)` -/
  | set (l : Line) (v : Level)
  /-- `Wait(T)`, T in nanoseconds -/
  | wait (ns : Nat)
  /-- `GclkOn(hz, duty)` -/
  | gclkOn (hz duty : Nat)
  /-- `Gclk(v)` -/
  | gclk (v : Level)
  /-- `Fault(cause)` -/
  | fault (c : Cause)
deriving DecidableEq, Repr

/-- The frame buffer (R32, R60): a pair (address, value) for each cell that holds a value, addresses rising. A value is a
natural below 2^CELL_BITS (R32), which `State.MemoryInv` states; an address not listed holds no value. A cell is read and
written whole and there are no bytes (R63; log entry 13). -/
abbrev Memory := List (Nat × Nat)

/-- The canonical form of a memory: addresses strictly rise. -/
abbrev Memory.wf (m : Memory) : Prop := m.Pairwise (fun a b => a.1 < b.1)

/-- Why a step stops with a fault. -/
inductive Fault where
  /-- SEND_FRAME would read a cell address outside the frame buffer (R60, R68). Raised by `execSendFrame` only, in a
  state whose configuration does not fit the grid; INIT refuses such a configuration, so no run from reset reaches it.
  Safe: the machine stops where the spec names no cell (log entry 11). -/
  | noSuchCell (address : Nat)
deriving DecidableEq, Repr

/-- Why a step is refused. -/
inductive Refusal where
  /-- An instruction that has no meaning yet; raised by an arm of `exec`, at present by none. Safe. -/
  | notModelled (mnemonic : String)
  /-- The last command of the program lacks trailing words (R76, U19): raised when a program is loaded and when such
  a command is fetched. Safe: the spec refuses the program (log entry 10). -/
  | programCutShort
deriving DecidableEq, Repr

/-- The architectural state at a command boundary. -/
structure State where
  /-- The level register of each line (R20). A line whose direction is `unconfigured` has no value: read it with
  `State.pin`. -/
  line : LineFile Level
  /-- The direction of each line (R21). -/
  dir : LineFile Dir
  /-- The index of the next command's first word in `prog` (R24). -/
  pc : Nat
  /-- The command stream (R60, R75): the words the host presents. -/
  prog : List Word
  /-- CFG_NDEV, csr 0 (R27); no value before INIT: read it with `State.csr`. -/
  cfgNdev : BitVec 16
  /-- CFG_WIDTH, csr 2 (R29); no value before INIT. -/
  cfgWidth : BitVec 5
  /-- STATUS, csr 3 (R30): bit 0 INIT_DONE, bit 1 FAULT, bit 2 GCLK_EN. -/
  status : BitVec 3
  /-- CAUSE, csr 4 (R31). -/
  cause : BitVec 3
  /-- FINFO, csr 5 (R31). -/
  finfo : Word
  /-- The frame buffer (R32). -/
  fb : Memory
  /-- The trace, oldest event first (R33). -/
  trace : List Event
  /-- The model's own counter: how many points at which the environment may move have passed (log entry 1). -/
  env : Nat
  /-- The build parameters of the run (R36; log entry 5); written by nothing. -/
  build : Build
deriving DecidableEq, Repr

/-- The state of R35 for given build parameters and a given command stream. The stored bits of undriven lines and of
CFG_NDEV and CFG_WIDTH, which R35 gives no value, are 0: DESIGN CHOICE (log entries 2, 3, 4, unsafe), which no command
shows. -/
def State.powerOn (build : Build) (prog : List Word) : State :=
  { line := { sdi := false, dclk := false, gclk := false, le := false, sdo := false }
    dir := { sdi := .unconfigured, dclk := .unconfigured, gclk := .unconfigured, le := .unconfigured
             sdo := .unconfigured }
    pc := 0
    prog := prog
    cfgNdev := 0
    cfgWidth := 0
    status := 0
    cause := 0
    finfo := 0
    fb := []
    trace := []
    env := 0
    build := build }

/-- The machine right after reset (R35, R235, R236): it waits for the host, which has presented no word yet (log
entry 7). -/
def State.reset : State := State.powerOn Build.default []

end Sys2Proof.Machine
end

