-- ==== Sys2Proof/Machine/Flags.lean ====
section
/-! DEFINITION. The three bits of STATUS (R30), the cause codes (R208) and the view of the six control and status
registers (R26). The machine has no arithmetic condition codes (R25). -/

namespace Sys2Proof.Machine

/-- STATUS.INIT_DONE, bit 0. -/
def State.initDone (s : State) : Bool := s.status.getLsbD 0
/-- STATUS.FAULT, bit 1. -/
def State.faulted (s : State) : Bool := s.status.getLsbD 1
/-- STATUS.GCLK_EN, bit 2. -/
def State.gclkEn (s : State) : Bool := s.status.getLsbD 2

/-- `csr.STATUS.INIT_DONE <- 1` -/
def State.setInitDone (s : State) : State := { s with status := s.status ||| 1#3 }
/-- `csr.STATUS.FAULT <- 1` -/
def State.setFault (s : State) : State := { s with status := s.status ||| 2#3 }
/-- `csr.STATUS.GCLK_EN <- 1` -/
def State.setGclkEn (s : State) : State := { s with status := s.status ||| 4#3 }

/-- The code CAUSE holds (R208); 0 stands for no fault. -/
def Cause.code : Cause → BitVec 3
  | .uninit => 1
  | .reinit => 2
  | .config => 3
  | .index => 4
  | .range => 5
  | .unwritten => 6
  | .illegal => 7

/-- The six control and status registers (R26). -/
inductive Csr where
  | cfgNdev
  | cfgNch
  | cfgWidth
  | status
  | cause
  | finfo
deriving DecidableEq, Repr

/-- The label of a register (R26). -/
def Csr.number : Csr → Nat
  | .cfgNdev => 0
  | .cfgNch => 1
  | .cfgWidth => 2
  | .status => 3
  | .cause => 4
  | .finfo => 5

/-- What a register holds (R26 to R31), `none` for no value: CFG_NDEV and CFG_WIDTH hold none until INIT has run (R35);
CFG_NCH is hard-wired (R28). The host can read none of them (R26): this is the view a claim takes. -/
def State.csr (s : State) : Csr → Option Nat
  | .cfgNdev => if s.initDone then some s.cfgNdev.toNat else none
  | .cfgNch => some s.build.nch
  | .cfgWidth => if s.initDone then some s.cfgWidth.toNat else none
  | .status => some s.status.toNat
  | .cause => some s.cause.toNat
  | .finfo => some s.finfo.toNat

end Sys2Proof.Machine
end

