-- ==== Sys2Proof/Machine/Operands.lean ====
section
/-! DEFINITION. Frame-buffer addressing, the maps between grid and chain, and the bounds the entry checks use
(R61, R62, R8, R29, R122). -/

namespace Sys2Proof

/-- The number of frame-buffer cells, ROWS*COLS*SLOTS (R32). -/
def Build.cells (b : Build) : Nat := b.rows * b.cols * b.slots

/-- The address of slot 0 of pixel (row, col) (R61). -/
def Build.pixelBase (b : Build) (row col : Nat) : Nat := (row * b.cols + col) * b.slots

/-- R61: `addr(row, col, slot)`; the slots are R = 0, G = 1, B = 2, W = 3. -/
def Build.cellAddr (b : Build) (row col slot : Nat) : Nat := b.pixelBase row col + slot

/-- FB_MAP(d, c) (R62). An index a table does not list is given the first address that is no cell, so that INIT refuses
it (log entry 6). -/
def Build.fbAddr (b : Build) (d c : Nat) : Nat :=
  match b.fbMap with
  | .linear => d * b.nch + c
  | .table t => t.getD (d * b.nch + c) b.cells

/-- CH_ORDER(j) (R8); an index a list that is too short leaves out is itself. -/
def Build.chOrderAt (b : Build) (j : Nat) : Nat := b.chOrder.getD j j

/-- CH_ORDER(0), CH_ORDER(1), ...: the channel indices in the order a device's channels are shifted (R8). -/
def Build.channels (b : Build) : List Nat := (List.range b.nch).map b.chOrderAt

/-- The (device, channel) pairs of a frame of `n` devices in transmission order: last device first, channels in the
order CH_ORDER (R153). -/
def Build.sendOrder (b : Build) (n : Nat) : List (Nat × Nat) :=
  (List.range n).reverse.flatMap fun d => b.channels.map fun c => (d, c)

/-- The cells a frame of `n` devices is read from, in transmission order (R152). -/
def Build.sendCells (b : Build) (n : Nat) : List Nat := (b.sendOrder n).map fun p => b.fbAddr p.1 p.2

/-- MAXV = 2^WIDTH - 1 (R7, R29). -/
def maxValue (width : Nat) : Nat := 2 ^ width - 1

/-- FB_MAP is the default map on a chain of `ndev` devices (R62), however it is written down: a table that lists the
linear values is the default map too (log entry 6). -/
def Build.mapIsDefault (b : Build) (ndev : Nat) : Bool :=
  match b.fbMap with
  | .linear => true
  | .table _ => (List.range ndev).all fun d => (List.range b.nch).all fun c => b.fbAddr d c == d * b.nch + c

/-- With the default FB_MAP the grid fills the chain exactly (R62, R122). -/
def Build.sizeOk (b : Build) (ndev : Nat) : Bool := b.cells == ndev * b.nch || !b.mapIsDefault ndev

/-- FB_MAP(d, c) is a cell address for every d < NDEV, c < NCH (R122). -/
def Build.mapOk (b : Build) (ndev : Nat) : Bool :=
  (List.range ndev).all fun d => (List.range b.nch).all fun c => decide (b.fbAddr d c < b.cells)

/-- R122: the configuration (ndev, width) is well formed. -/
def Build.configOk (b : Build) (ndev width : Nat) : Bool :=
  decide (1 ≤ ndev) && (decide (1 ≤ width) && decide (width ≤ b.cellBits)) && b.sizeOk ndev && b.mapOk ndev

end Sys2Proof
end

