-- ==== Sys2Proof/Machine/Ops.lean ====
section
/-! DEFINITION. The named operations: frame-buffer accesses (R10), lines, the environment's moves (R74, R221), the
line-level primitives (R11), fault entry (R207), the acceptance of a command (R206), reset (R235), delivery (R76). -/

namespace Sys2Proof.Machine

-- The line file (R20)

/-- `line[L]` or `dir[L]` -/
def LineFile.get {α : Type} (f : LineFile α) : Line → α
  | .sdi => f.sdi
  | .dclk => f.dclk
  | .gclk => f.gclk
  | .le => f.le
  | .sdo => f.sdo

/-- `line[L] <- v` or `dir[L] <- v` -/
def LineFile.set {α : Type} (f : LineFile α) (l : Line) (v : α) : LineFile α :=
  match l with
  | .sdi => { f with sdi := v }
  | .dclk => { f with dclk := v }
  | .gclk => { f with gclk := v }
  | .le => { f with le := v }
  | .sdo => { f with sdo := v }

/-- The value of `line[L]`: a line that is not configured has none (R35, U2). -/
def State.pin (s : State) (l : Line) : Option Level :=
  match s.dir.get l with
  | .unconfigured => none
  | .out => some (s.line.get l)
  | .input => some (s.line.get l)

-- The frame buffer (R10)

/-- `MemRead(a, 1)`: the value of cell `a`, or no value. -/
def Memory.read : Memory → Nat → Option Nat
  | [], _ => none
  | (b, v) :: m, a => if a = b then some v else Memory.read m a

/-- `MemWrite(a, 1, v)`, keeping the addresses in order. -/
def Memory.write : Memory → Nat → Nat → Memory
  | [], a, v => [(a, v)]
  | (b, x) :: m, a, v =>
    if a < b then (a, v) :: (b, x) :: m
    else if a = b then (a, v) :: m
    else (b, x) :: Memory.write m a v

/-- The four writes of one pixel whose slot 0 is at `base`, in slot order (R166, R167). -/
def Memory.writePixel (m : Memory) (base : Nat) (r g b w : Nat) : Memory :=
  (((m.write (base + 0) r).write (base + 1) g).write (base + 2) b).write (base + 3) w

/-- The loops of FB_FILL (R167): every pixel of the grid, row by row. -/
def Memory.fill (m : Memory) (build : Build) (r g b w : Nat) : Memory :=
  (List.range build.rows).foldl
    (fun m row => (List.range build.cols).foldl (fun m col => m.writePixel (build.pixelBase row col) r g b w) m) m

-- The environment: the GCLK generator and the chain's SDO (R70, R74, R221)

/-- One step of the GCLK generator (R221). -/
def gclkStep (s : State) : State :=
  { s with line := { s.line with gclk := !s.line.gclk }, trace := s.trace ++ [.gclk (!s.line.gclk)] }

/-- The events of `n` generator steps from level `l` (R221). -/
def gclkEvents : Level → Nat → List Event
  | _, 0 => []
  | l, n + 1 => .gclk (!l) :: gclkEvents (!l) n

/-- The level of GCLK after `n` generator steps from level `l` (R221). -/
def gclkLevel : Level → Nat → Level
  | l, 0 => l
  | l, n + 1 => gclkLevel (!l) n

/-- The point of the i-th promised generator step, `gap i` points after the one before. The points rise, so that there
is always a later one. -/
def turnOf (gap : Nat → Nat) : Nat → Nat
  | 0 => gap 0
  | i + 1 => turnOf gap i + 1 + gap (i + 1)

/-- The schedule two number sequences make: `extra k` generator steps at point `k`, and the promised one beside them
where there is one. Each is fair, infinitely many points having a step, and each fair schedule is made so (R74 c, R221;
log entry 1). -/
def scheduleOf (gap extra : Nat → Nat) (k : Nat) : Nat :=
  extra k + if (List.range (k + 1)).any (fun i => turnOf gap i == k) then 1 else 0

/-- How many steps the generator takes at the k-th point at which it may move: a fair schedule, otherwise free. -/
def gclkSteps (k : Nat) : Nat := scheduleOf Config.gclkGap Config.gclkExtra k

/-- How many steps the generator takes at this point: none while GCLK_EN = 0 (R221), else those of the schedule. -/
def State.gclkTicks (s : State) : Nat := if s.gclkEn then gclkSteps s.env else 0

/-- A point at which the environment may move: between two primitives of the controller and before a command (R74,
R246; log entry 1). The generator takes `gclkTicks` steps and the chain drives SDO. -/
def State.environment (s : State) : State :=
  { s with
    line := { s.line with gclk := gclkLevel s.line.gclk s.gclkTicks, sdo := Config.sdoLevel s.env }
    trace := s.trace ++ gclkEvents s.line.gclk s.gclkTicks
    env := s.env + 1 }

-- The line-level primitives (R11)

/-- Append one event to the trace (R33). -/
def State.emit (s : State) (e : Event) : State := { s with trace := s.trace ++ [e] }

/-- `config(L, d)` -/
def State.config (s : State) (l : Line) (d : Dir) : State := ({ s with dir := s.dir.set l d }).emit (.dir l d)

/-- `drive(L, v)`. R11 requires `dir[L] = out`; R21 derives that a command that passed its entry checks meets it
(log entry 12). -/
def State.drive (s : State) (l : Line) (v : Level) : State := ({ s with line := s.line.set l v }).emit (.set l v)

/-- `wait(T)`, a lower bound with no other meaning (R220; log entry 15). -/
def State.wait (s : State) (ns : Nat) : State := s.emit (.wait ns)

/-- INIT's step 4 (R121): enable the generator and record it. -/
def State.gclkStart (s : State) (hz duty : Nat) : State := s.setGclkEn.emit (.gclkOn hz duty)

/-- What a command body is made of: the primitives of R11 and INIT's clock start. -/
inductive Action where
  | config (l : Line) (d : Dir)
  | drive (l : Line) (v : Level)
  | wait (ns : Nat)
  | gclkStart (hz duty : Nat)
deriving DecidableEq, Repr

/-- The event a primitive appends (R33). -/
def Action.event : Action → Event
  | .config l d => .dir l d
  | .drive l v => .set l v
  | .wait ns => .wait ns
  | .gclkStart hz duty => .gclkOn hz duty

/-- A primitive carried out by the controller. -/
def Action.perform (a : Action) (s : State) : State :=
  match a with
  | .config l d => s.config l d
  | .drive l v => s.drive l v
  | .wait ns => s.wait ns
  | .gclkStart hz duty => s.gclkStart hz duty

/-- Carry out primitives in the order given (R12, R246); after each the environment may move (R74). -/
def State.play (s : State) (actions : List Action) : State :=
  actions.foldl (fun s a => (a.perform s).environment) s

/-- `pulse_dclk()` (R11) -/
def pulseDclk (b : Build) : List Action := [.drive .dclk true, .wait b.tBitNs, .drive .dclk false]

-- Entry and end of a command

/-- Fault entry (R207): STATUS.FAULT, CAUSE, FINFO and the `Fault` event; nothing else changes, `pc` included. -/
def State.raise (s : State) (c : Cause) (w0 : Word) : State :=
  ({ s.setFault with cause := c.code, finfo := w0 }).emit (.fault c)

/-- `pc <- pc + len` (R24) -/
def State.advance (s : State) (len : Nat) : State := { s with pc := s.pc + len }

/-- The order of R206: a halted controller does not accept the command (check 0, R212), a violation found by the entry
checks is raised, and otherwise the body runs. `w0` is the command's first word. -/
def accept (s : State) (w0 : Word) (violation : Option Cause) (body : State → State) :
    Host.Outcome State Fault Refusal :=
  if s.faulted then .next s
  else
    match violation with
    | some c => .next (s.raise c w0)
    | none => .next (body s)

/-- Check 2 of R206 for every Bus Driver command but INIT. -/
def State.needsInit (s : State) : Option Cause := if s.initDone then none else some .uninit

/-- Executing an illegal word (R100, check 1 of R206). -/
def execIllegal (w0 : Word) (s : State) : Host.Outcome State Fault Refusal := accept s w0 (some .illegal) id

-- Reset and delivery

/-- The reset event (R235): every piece of state takes its value of R35. The build parameters and the command stream are
no state (R36), and the environment's counter goes on (log entry 19). -/
def State.resetEvent (s : State) : State := { State.powerOn s.build s.prog with env := s.env }

/-- What the controller finds at `pc` (R76, R98). -/
def State.fetch (s : State) : Decoded := decode (s.prog.drop s.pc)

/-- The host presents a program (R76): one whose last command is cut short is refused before it runs. R76 speaks of the
program a run starts with, at `pc = 0`, and says nothing of a host that presents more commands later. DESIGN CHOICE (log
entry 7): presented while a run is under way, `p` takes the place of the whole stream, `pc` keeps its value, and `p` is
judged from its word 0 and not from `pc`; from a `pc` inside one of its commands a step may still meet words of it cut
short, and refuses there. -/
def State.load (s : State) (p : List Word) : Host.Outcome State Fault Refusal :=
  if admitted p then .next { s with prog := p } else .refused .programCutShort

/-- The words `ws` put at index `start` of a command stream; missing words before them are filled with zero words. -/
def placeWords (prog : List Word) (start : Nat) (ws : List Word) : List Word :=
  prog.take start ++ List.replicate (start - prog.length) 0 ++ ws ++ prog.drop (start + ws.length)

end Sys2Proof.Machine
end

