-- ==== Sys2Proof/Machine/FrameBuffer.lean ====
section
/-! DEFINITION. The frame-buffer family (44_framebuffer.md). None of the three checks INIT_DONE or a value against
MAXV, and none makes a line event (R165). -/

namespace Sys2Proof.Machine

/-- Check 3 of R206 for FB_SET_PIXEL: the pixel lies in the grid. -/
def State.indexCheck (s : State) (row col : Nat) : Option Cause :=
  if row < s.build.rows ∧ col < s.build.cols then none else some .index

/-- FB_SET_PIXEL (R166) -/
def execFbSetPixel (row col : BitVec 12) (r g b w : BitVec 16) (s : State) : Host.Outcome State Fault Refusal :=
  accept s (Instr.fbSetPixel row col r g b w).firstWord (s.indexCheck row.toNat col.toNat) fun s =>
    ({ s with fb := s.fb.writePixel (s.build.pixelBase row.toNat col.toNat) r.toNat g.toNat b.toNat w.toNat }).advance 3

/-- The body FB_FILL and FB_CLEAR share (R167, R168). -/
def State.fillWith (s : State) (r g b w : Nat) : State := { s with fb := s.fb.fill s.build r g b w }

/-- FB_FILL (R167) -/
def execFbFill (r g b w : BitVec 16) (s : State) : Host.Outcome State Fault Refusal :=
  accept s (Instr.fbFill r g b w).firstWord none fun s => (s.fillWith r.toNat g.toNat b.toNat w.toNat).advance 3

/-- FB_CLEAR (R168): the body of FB_FILL(0, 0, 0, 0). -/
def execFbClear (s : State) : Host.Outcome State Fault Refusal :=
  accept s Instr.fbClear.firstWord none fun s => (s.fillWith 0 0 0 0).advance 1

end Sys2Proof.Machine
end

