-- ==== Sys2Proof/Machine/Shift.lean ====
section
/-! DEFINITION. The shift family (41_shift.md): the primitives shift_bit and shift_value, SHIFT_BIT and SHIFT_VALUE. -/

namespace Sys2Proof.Machine

/-- `shift_bit(v)` (R131): data, then one DCLK pulse, the three phases separated by two waits. -/
def shiftBit (b : Build) (v : Level) : List Action := [.drive .sdi v, .wait b.tBitNs] ++ pulseDclk b

/-- `shift_value(v, w)` (R133): bits w-1 down to 0 of v. -/
def shiftValue (b : Build) (v : Nat) : Nat → List Action
  | 0 => []
  | w + 1 => shiftBit b (v.testBit w) ++ shiftValue b v w

/-- SHIFT_BIT (R132) -/
def execShiftBit (bit : BitVec 1) (s : State) : Host.Outcome State Fault Refusal :=
  accept s (Instr.shiftBit bit).firstWord s.needsInit fun s => (s.play (shiftBit s.build (bit == 1#1))).advance 1

/-- SHIFT_VALUE (R134): no check of the operands; every pair is legal. -/
def execShiftValue (value : BitVec 16) (width : BitVec 8) (s : State) : Host.Outcome State Fault Refusal :=
  accept s (Instr.shiftValue value width).firstWord s.needsInit fun s =>
    (s.play (shiftValue s.build value.toNat width.toNat)).advance 1

end Sys2Proof.Machine
end

