-- ==== Sys2Proof/Machine/LatchCommit.lean ====
section
/-! DEFINITION. The latch-enable family (42_latch_commit.md): the primitive le_pulse, LATCH and COMMIT. -/

namespace Sys2Proof.Machine

/-- The `n` DCLK pulses of le_pulse (R141), each followed by a wait. -/
def dclkPulses (b : Build) : Nat → List Action
  | 0 => []
  | n + 1 => pulseDclk b ++ [.wait b.tBitNs] ++ dclkPulses b n

/-- `le_pulse(n)` (R141) -/
def lePulse (b : Build) (n : Nat) : List Action :=
  [.drive .dclk false, .wait b.tLeNs, .drive .le true, .wait b.tLeNs] ++ dclkPulses b n ++
    [.wait b.tLeNs, .drive .le false, .wait b.tLeNs]

/-- LATCH (R142) -/
def execLatch (s : State) : Host.Outcome State Fault Refusal :=
  accept s Instr.latch.firstWord s.needsInit fun s => (s.play (lePulse s.build s.build.latchPulses)).advance 1

/-- COMMIT (R143) -/
def execCommit (s : State) : Host.Outcome State Fault Refusal :=
  accept s Instr.commit.firstWord s.needsInit fun s => (s.play (lePulse s.build s.build.commitPulses)).advance 1

end Sys2Proof.Machine
end

