-- ==== Sys2Proof/Machine/Frame.lean ====
section
/-! DEFINITION. The frame family (43_frame_ops.md): clear_body, send_scan, send_body, CLEAR, SEND_FRAME, SET_UNIFORM. -/

namespace Sys2Proof.Machine

/-- One round of `clear_body`: zero into the NCH channels of one device, then a latch (R150). -/
def clearRound (b : Build) (w : Nat) : List Action :=
  ((List.range b.nch).flatMap fun _ => shiftValue b 0 w) ++ lePulse b b.latchPulses

/-- `clear_body()` for `n` devices of width `w` (R150). -/
def clearBody (b : Build) (n w : Nat) : List Action :=
  ((List.range n).flatMap fun _ => clearRound b w) ++ lePulse b b.commitPulses

/-- CLEAR (R151) -/
def execClear (s : State) : Host.Outcome State Fault Refusal :=
  accept s Instr.clear.firstWord s.needsInit fun s =>
    (s.play (clearBody s.build s.cfgNdev.toNat s.cfgWidth.toNat)).advance 1

/-- What `send_scan` finds (R152): the values of the cells in the order scanned, a violation, or an address that is no
cell (R60). -/
inductive Scan where
  | values (vs : List Nat)
  | violation (c : Cause)
  | noCell (address : Nat)
deriving DecidableEq, Repr

/-- `send_scan()` over the cells still to check (R152): the first offending cell decides. -/
def scanCells (build : Build) (m : Memory) (maxv : Nat) : List Nat → Scan
  | [] => .values []
  | a :: as =>
    if a < build.cells then
      match m.read a with
      | none => .violation .unwritten
      | some v =>
        if v > maxv then .violation .range
        else
          match scanCells build m maxv as with
          | .values vs => .values (v :: vs)
          | .violation c => .violation c
          | .noCell a' => .noCell a'
    else .noCell a

/-- `send_scan()` (R152) for the configured chain. -/
def State.sendScan (s : State) : Scan :=
  scanCells s.build s.fb (maxValue s.cfgWidth.toNat) (s.build.sendCells s.cfgNdev.toNat)

/-- `send_body(val)` (R153), the values given in transmission order. -/
def sendBody (b : Build) (vals : List Nat) (w : Nat) : List Action :=
  (vals.flatMap fun v => shiftValue b v w) ++ lePulse b b.latchPulses ++ lePulse b b.commitPulses

/-- SEND_FRAME (R154): CV_UNINIT, then the scan's violation, then the transmission. Each cell is read once, in the scan
(R67). -/
def execSendFrame (s : State) : Host.Outcome State Fault Refusal :=
  if s.faulted then .next s
  else if s.initDone then
    match s.sendScan with
    | .values vs => .next ((s.play (sendBody s.build vs s.cfgWidth.toNat)).advance 1)
    | .violation c => .next (s.raise c Instr.sendFrame.firstWord)
    | .noCell a => .fault (.noSuchCell a)
  else .next (s.raise .uninit Instr.sendFrame.firstWord)

/-- Check 3 of R206 for SET_UNIFORM: `value > MAXV`. -/
def State.uniformCheck (s : State) (value : Nat) : Option Cause :=
  if value > maxValue s.cfgWidth.toNat then some .range else none

/-- SET_UNIFORM (R156): every channel of every device gets the value; the frame buffer is not touched (R157). -/
def execSetUniform (value : BitVec 16) (s : State) : Host.Outcome State Fault Refusal :=
  accept s (Instr.setUniform value).firstWord (s.needsInit.or (s.uniformCheck value.toNat)) fun s =>
    (s.play (sendBody s.build ((s.build.sendOrder s.cfgNdev.toNat).map fun _ => value.toNat) s.cfgWidth.toNat)).advance 1

end Sys2Proof.Machine
end

