-- ==== Sys2Proof/Machine/Init.lean ====
section
/-! DEFINITION. INIT (40_initialize.md). -/

namespace Sys2Proof.Machine

/-- INIT's entry checks in order (R121, R206): CV_REINIT, then CV_CONFIG (R122). -/
def State.initCheck (s : State) (ndev width : Nat) : Option Cause :=
  if s.initDone then some .reinit else if s.build.configOk ndev width then none else some .config

/-- INIT's steps 2 to 5 (R121): directions, idle-low levels, the clock, the clear. -/
def initActions (b : Build) (ndev width : Nat) : List Action :=
  [.config .sdi .out, .config .dclk .out, .config .gclk .out, .config .le .out, .config .sdo .input,
   .drive .sdi false, .drive .dclk false, .drive .gclk false, .drive .le false, .gclkStart b.gclkHz b.gclkDutyPct] ++
    clearBody b ndev width

/-- INIT's step 1 (R121): `csr.CFG_NDEV <- ndev; csr.CFG_WIDTH <- width`. The entry check admits widths up to 16, which
fit CFG_WIDTH's 5 bits (log entry 18). -/
def State.setConfig (s : State) (ndev : BitVec 16) (width : BitVec 8) : State :=
  { s with cfgNdev := ndev, cfgWidth := width.setWidth 5 }

/-- INIT (R121) -/
def execInit (ndev : BitVec 16) (width : BitVec 8) (s : State) : Host.Outcome State Fault Refusal :=
  accept s (Instr.init ndev width).firstWord (s.initCheck ndev.toNat width.toNat) fun s =>
    let s1 := s.setConfig ndev width
    ((s1.play (initActions s1.build s1.cfgNdev.toNat s1.cfgWidth.toNat)).setInitDone).advance 1

end Sys2Proof.Machine
end

