-- ==== Sys2Proof/Machine/Dispatch.lean ====
section
/-! DEFINITION. The meaning of every command, one arm per constructor. -/

namespace Sys2Proof.Machine

def exec (i : Instr) (s : State) : Host.Outcome State Fault Refusal :=
  match i with
  | .init ndev width => Sys2Proof.Machine.execInit ndev width s
  | .shiftBit bit => Sys2Proof.Machine.execShiftBit bit s
  | .shiftValue value width => Sys2Proof.Machine.execShiftValue value width s
  | .latch => Sys2Proof.Machine.execLatch s
  | .commit => Sys2Proof.Machine.execCommit s
  | .clear => Sys2Proof.Machine.execClear s
  | .sendFrame => Sys2Proof.Machine.execSendFrame s
  | .setUniform value => Sys2Proof.Machine.execSetUniform value s
  | .fbSetPixel row col r g b w => Sys2Proof.Machine.execFbSetPixel row col r g b w s
  | .fbFill r g b w => Sys2Proof.Machine.execFbFill r g b w s
  | .fbClear => Sys2Proof.Machine.execFbClear s

end Sys2Proof.Machine
end

