-- ==== Sys2Proof/Machine/Step.lean ====
section
/-! DEFINITION. One step: the environment may move, then the controller executes the command at `pc` to completion
(R76, R246). -/

namespace Sys2Proof.Machine

/-- A halted controller accepts nothing (R212) and one whose program has ended waits for the host (R76, R236): in both
only the environment moves (log entries 8 and 9). Otherwise the command at `pc` runs, an illegal word faults (R100), and
a command cut short is refused (R76). -/
def step (s : State) : Host.Outcome State Fault Refusal :=
  if s.faulted then .next s.environment
  else
    match s.environment.fetch with
    | .none => .next s.environment
    | .illegal w0 => execIllegal w0 s.environment
    | .cutShort => .refused .programCutShort
    | .command i _ => exec i s.environment

/-- The instruction whose bits are `w`, the bits from `nbits` up being zero, presented at `pc`. The rest of the stream
stays (log entry 7). -/
def State.withFetchWord (s : State) (nbits w : Nat) : State :=
  { s with prog := placeWords s.prog s.pc (tableWords nbits w) }

end Sys2Proof.Machine
end

