-- ==== Sys2Proof/Machine/Trace.lean ====
section
/-! DEFINITION. Views of a trace, which no command reads: the command trace (R33), its protocol trace (R190), the counts
and minimum durations of R250, and a monitor of the orderings on the wire (R191, R240, R241). -/

namespace Sys2Proof.Machine

/-- A `Gclk(v)` event (R33). -/
def Event.isGclk : Event → Bool
  | .gclk _ => true
  | .dir _ _ => false
  | .set _ _ => false
  | .wait _ => false
  | .gclkOn _ _ => false
  | .fault _ => false

/-- A `Wait(T)` event (R33). -/
def Event.isWait : Event → Bool
  | .wait _ => true
  | .gclk _ => false
  | .dir _ _ => false
  | .set _ _ => false
  | .gclkOn _ _ => false
  | .fault _ => false

/-- A `Set(L, v)` event (R33). -/
def Event.isSet : Event → Bool
  | .set _ _ => true
  | .wait _ => false
  | .gclk _ => false
  | .dir _ _ => false
  | .gclkOn _ _ => false
  | .fault _ => false

/-- The command trace: every `Gclk` event removed (R33). -/
def commandTrace (es : List Event) : List Event := es.filter fun e => !e.isGclk

/-- The `Gclk` events alone. -/
def gclkTrace (es : List Event) : List Event := es.filter Event.isGclk

/-- A trace with every `Wait` removed: two command traces are equal modulo waits when these are equal (R33). -/
def moduloWaits (es : List Event) : List Event := es.filter fun e => !e.isWait

/-- The events of a command body (R33). -/
def actionEvents (as : List Action) : List Event := as.map Action.event

/-- The last level a body drives on line `l`, or `v` if it drives none (R22). -/
def lastDriven (l : Line) (v : Level) : List Action → Level
  | [] => v
  | .drive l' v' :: as => lastDriven l (if l' = l then v' else v) as
  | .config _ _ :: as => lastDriven l v as
  | .wait _ :: as => lastDriven l v as
  | .gclkStart _ _ :: as => lastDriven l v as

/-- How many `Set` events there are (R250). -/
def setCount (es : List Event) : Nat := es.countP Event.isSet

/-- How often DCLK is driven high: in a command body each is a rising edge (R250). -/
def dclkRises (es : List Event) : Nat := es.countP fun e => e == .set .dclk true

/-- The minimum duration in nanoseconds: the sum of the waits (R250). -/
def minDuration : List Event → Nat
  | [] => 0
  | .wait ns :: es => ns + minDuration es
  | .gclk _ :: es => minDuration es
  | .dir _ _ :: es => minDuration es
  | .set _ _ :: es => minDuration es
  | .gclkOn _ _ :: es => minDuration es
  | .fault _ :: es => minDuration es

/-- The protocol events of R190. -/
inductive ProtoEvent where
  /-- `Shift(b)` -/
  | shift (b : Level)
  /-- `LePulse(n)` -/
  | lePulse (n : Nat)
deriving DecidableEq, Repr

/-- What the decoding of R190 tracks. -/
structure Probe where
  sdi : Level
  dclk : Level
  le : Level
  count : Nat
deriving DecidableEq, Repr

/-- All levels 0, as after INIT's step 3 (R190). -/
def Probe.start : Probe := { sdi := false, dclk := false, le := false, count := 0 }

/-- The `Set` events of R190. `leShifts` is the open parameter of U7 (default `false`, which is R190 itself): with `true`
a DCLK rising edge under LE high is reported as a `Shift` too (log entry 16). -/
def Probe.onSet (leShifts : Bool) (p : Probe) (l : Line) (v : Level) : Probe × List ProtoEvent :=
  match l with
  | .sdi => ({ p with sdi := v }, [])
  | .dclk =>
    if v && !p.dclk then
      if p.le then ({ p with dclk := true, count := p.count + 1 }, if leShifts then [.shift p.sdi] else [])
      else ({ p with dclk := true }, [.shift p.sdi])
    else ({ p with dclk := v }, [])
  | .le =>
    if v && !p.le then ({ p with le := true, count := 0 }, [])
    else if !v && p.le then ({ p with le := false }, [.lePulse p.count])
    else (p, [])
  | .gclk => (p, [])
  | .sdo => (p, [])

/-- One event of a trace (R190). -/
def Probe.step (leShifts : Bool) (p : Probe) : Event → Probe × List ProtoEvent
  | .set l v => p.onSet leShifts l v
  | .dir _ _ => (p, [])
  | .wait _ => (p, [])
  | .gclkOn _ _ => (p, [])
  | .gclk _ => (p, [])
  | .fault _ => (p, [])

/-- The tracked levels after a trace. -/
def Probe.after (leShifts : Bool) (p : Probe) : List Event → Probe
  | [] => p
  | e :: es => Probe.after leShifts (p.step leShifts e).1 es

/-- The protocol events of a trace scanned from the levels `p` (R190). -/
def protocolFrom (leShifts : Bool) (p : Probe) : List Event → List ProtoEvent
  | [] => []
  | e :: es => (p.step leShifts e).2 ++ protocolFrom leShifts (p.step leShifts e).1 es

/-- The protocol trace of R190. -/
def protocolTrace (es : List Event) : List ProtoEvent := protocolFrom false Probe.start es

/-- The counts of the LE-high windows in order. -/
def pulsesOf : List ProtoEvent → List Nat
  | [] => []
  | .shift _ :: es => pulsesOf es
  | .lePulse n :: es => n :: pulsesOf es

/-- The bits shifted in order. -/
def shiftsOf : List ProtoEvent → List Level
  | [] => []
  | .shift b :: es => b :: shiftsOf es
  | .lePulse _ :: es => shiftsOf es

/-- A list of bits read as a binary numeral, most significant first (R135 a). -/
def bitsToNat (bs : List Level) : Nat := bs.foldl (fun n b => 2 * n + b.toNat) 0

/-- What the monitor of the wire tracks: the levels, and for each line how much waiting has passed since it was last
written (SDI) or last changed (DCLK, LE). -/
structure Wire where
  dclk : Level
  le : Level
  sinceSdi : Nat
  sinceDclk : Nat
  sinceLe : Nat
deriving DecidableEq, Repr

/-- Before any edge: idle levels, and no edge to keep a distance from. -/
def Wire.start (b : Build) : Wire :=
  { dclk := false, le := false, sinceSdi := b.tBitNs, sinceDclk := max b.tBitNs b.tLeNs, sinceLe := b.tLeNs }

/-- One `Set` event under the rules of R191, R240, R241 and R247: SDI is written only while DCLK and LE are low; DCLK
rises at least T_BIT_NS after the last SDI write and the last DCLK edge and at least T_LE_NS after the last LE edge; DCLK
falls at least T_BIT_NS after it rose; LE changes only while DCLK is low, at least T_LE_NS after the last DCLK edge.
`none` is a breach. -/
def Wire.onSet (b : Build) (x : Wire) (l : Line) (v : Level) : Option Wire :=
  match l with
  | .sdi => if !x.dclk && !x.le then some { x with sinceSdi := 0 } else none
  | .dclk =>
    if v == x.dclk then some x
    else if v then
      if b.tBitNs ≤ x.sinceSdi ∧ b.tBitNs ≤ x.sinceDclk ∧ b.tLeNs ≤ x.sinceLe then
        some { x with dclk := true, sinceDclk := 0 }
      else none
    else if b.tBitNs ≤ x.sinceDclk then some { x with dclk := false, sinceDclk := 0 }
    else none
  | .le =>
    if v == x.le then some x
    else if !x.dclk ∧ b.tLeNs ≤ x.sinceDclk then some { x with le := v, sinceLe := 0 }
    else none
  | .gclk => some x
  | .sdo => some x

/-- One event of a trace; a wait passes time for every line. -/
def Wire.step (b : Build) (x : Wire) : Event → Option Wire
  | .set l v => x.onSet b l v
  | .wait ns =>
    some { x with sinceSdi := x.sinceSdi + ns, sinceDclk := x.sinceDclk + ns, sinceLe := x.sinceLe + ns }
  | .dir _ _ => some x
  | .gclkOn _ _ => some x
  | .gclk _ => some x
  | .fault _ => some x

/-- The monitor over a trace; `none` when some event breaches the orderings. -/
def Wire.run (b : Build) (x : Wire) : List Event → Option Wire
  | [] => some x
  | e :: es =>
    match x.step b e with
    | none => none
    | some y => Wire.run b y es

end Sys2Proof.Machine
end

