-- ==== Sys2Proof/Machine/Observer.lean ====
section
/-! DEFINITION. The reference observer of the chain (R192, R193): the spec's own abstraction of the devices, outside the
machine. No command reads it; it is a view of a protocol trace (R195; log entry 16). -/

namespace Sys2Proof.Machine

/-- The observer's three bit vectors (R192); `none` is the spec's "unknown". -/
structure Chain where
  sr : List (Option Level)
  hold : List (Option Level)
  out : List (Option Level)
deriving DecidableEq, Repr

/-- A chain of `n` devices of width `w` at power-up: every bit unknown (R192, U15). -/
def Chain.powerUp (b : Build) (n w : Nat) : Chain :=
  { sr := List.replicate (n * b.nch * w) none
    hold := List.replicate (n * b.nch * w) none
    out := List.replicate (n * b.nch * w) none }

/-- One observer step (R193). A pulse count other than 1 and 3 has no meaning: the observer stops (U6). -/
def Chain.observe (c : Chain) : ProtoEvent → Option Chain
  | .shift b => some { c with sr := (some b :: c.sr).take c.sr.length }
  | .lePulse n =>
    if n = 1 then some { c with hold := c.sr }
    else if n = 3 then some { c with out := c.hold }
    else none

/-- The observer over a protocol trace (R193). -/
def Chain.run (c : Chain) : List ProtoEvent → Option Chain
  | [] => some c
  | e :: es =>
    match c.observe e with
    | none => none
    | some c' => Chain.run c' es

/-- The observer over a trace, with the open parameter of U7 (default `false`). -/
def Chain.watch (leShifts : Bool) (c : Chain) (es : List Event) : Option Chain :=
  c.run (protocolFrom leShifts Probe.start es)

/-- Bits read as a number, least significant first; unknown if any bit is (R192). -/
def wordOfBits : List (Option Level) → Option Nat
  | [] => some 0
  | none :: _ => none
  | some b :: bs => (wordOfBits bs).map fun n => b.toNat + 2 * n

/-- `word(x, d, q)` for width `w` (R192). -/
def chainWord (b : Build) (x : List (Option Level)) (w d q : Nat) : Option Nat :=
  wordOfBits ((x.drop ((d * b.nch + q) * w)).take w)

end Sys2Proof.Machine
end

