-- ==== Sys2Proof/Machine/Sequencer.lean ====
section
/-! DEFINITION. The host pseudo-instructions (45_sequencer.md): each expands into a finite list of commands and host
delays. They add nothing to the controller (R175, R180; log entry 17). -/

namespace Sys2Proof.Machine

/-- What a host does: present a command, or wait (R176). -/
inductive HostItem where
  | cmd (i : Instr)
  | delay (t : Nat)
deriving DecidableEq, Repr

/-- The commands of an expansion: a delay emits no word (R176). -/
def hostCommands : List HostItem → List Instr
  | [] => []
  | .cmd i :: items => i :: hostCommands items
  | .delay _ :: items => hostCommands items

/-- The command words of an expansion (R176, R103). -/
def hostWords (items : List HostItem) : List Word := assemble (hostCommands items)

/-- An RGBW colour (R13). -/
structure Color where
  r : BitVec 16
  g : BitVec 16
  b : BitVec 16
  w : BitVec 16
deriving DecidableEq, Repr

/-- `OFF` (R177); T_OFF is an open parameter. -/
def hostOff (tOff : Nat) : List HostItem := [.cmd .fbClear, .cmd .sendFrame, .delay tOff]

/-- The colour of a cell in one phase of CHECKER (R178): the first where row + col is even. -/
def checkerColor (even odd : Color) (row col : Nat) : Color := if (row + col) % 2 = 0 then even else odd

/-- The FB_SET_PIXEL of one pixel. -/
def setPixelItem (row col : Nat) (c : Color) : HostItem :=
  .cmd (.fbSetPixel (BitVec.ofNat 12 row) (BitVec.ofNat 12 col) c.r c.g c.b c.w)

/-- One phase of CHECKER (R178). -/
def checkerPhase (build : Build) (even odd : Color) (t : Nat) : List HostItem :=
  ((List.range build.rows).flatMap fun row =>
    (List.range build.cols).map fun col => setPixelItem row col (checkerColor even odd row col)) ++
    [.cmd .sendFrame, .delay t]

/-- `CHECKER a, b, T` (R178) -/
def hostChecker (build : Build) (a b : Color) (t : Nat) : List HostItem :=
  checkerPhase build a b t ++ checkerPhase build b a t

/-- `while L < MAXV: L = min(L + S, MAXV); frame(L)` (R179), at most `fuel` rounds. -/
def pulseRise (maxv step : Nat) : Nat → Nat → List Nat
  | 0, _ => []
  | fuel + 1, l => if l < maxv then min (l + step) maxv :: pulseRise maxv step fuel (min (l + step) maxv) else []

/-- `while L > 0: L = max(L - S, 0); frame(L)` (R179), at most `fuel` rounds. -/
def pulseFall (step : Nat) : Nat → Nat → List Nat
  | 0, _ => []
  | fuel + 1, l => if 0 < l then (l - step) :: pulseFall step fuel (l - step) else []

/-- The levels of one PULSE (R179). With S at least 1 the loops end within MAXV rounds; PULSE_STEP is an open
parameter. -/
def pulseLevels (maxv step : Nat) : List Nat := 0 :: pulseRise maxv step maxv 0 ++ pulseFall step maxv maxv

/-- `frame(L)` (R179); PULSE_DELAY is an open parameter. -/
def pulseFrame (delay level : Nat) : List HostItem :=
  [.cmd (.fbFill (BitVec.ofNat 16 level) (BitVec.ofNat 16 level) (BitVec.ofNat 16 level) (BitVec.ofNat 16 level)),
   .cmd .sendFrame, .delay delay]

/-- `PULSE f` (R179) on a chain whose largest value is `maxv`. PULSE_STEP and PULSE_DELAY are the open parameters of R8,
functions of the caller's frequency `f`; the spec gives a frequency no unit and no type. -/
def hostPulse {Freq : Type} (pulseStep pulseDelay : Freq → Nat) (maxv : Nat) (f : Freq) : List HostItem :=
  (pulseLevels maxv (pulseStep f)).flatMap (pulseFrame (pulseDelay f))

end Sys2Proof.Machine
end

