-- ==== Sys2Proof/Safety.lean ====
section
/-! DEFINITION. The terms claims are stated in: the phases of the machine's life (R215), its invariants, the frames of the
commands, and the views that two runs may share. -/

namespace Sys2Proof.Machine

-- The phases of R215

/-- The running phase: INIT_DONE = 1 and FAULT = 0. -/
def State.Running (s : State) : Prop := s.initDone = true ∧ s.faulted = false

/-- The uninitialised phase: INIT_DONE = 0 and FAULT = 0. -/
def State.Fresh (s : State) : Prop := s.initDone = false ∧ s.faulted = false

-- Invariants: each holds at reset and every step keeps it

/-- The directions INIT sets (R21). -/
def configuredDirs : LineFile Dir := { sdi := .out, dclk := .out, gclk := .out, le := .out, sdo := .input }

/-- The directions after reset (R35). -/
def resetDirs : LineFile Dir :=
  { sdi := .unconfigured, dclk := .unconfigured, gclk := .unconfigured, le := .unconfigured, sdo := .unconfigured }

/-- What the status bits stand for (R21, R22, R30, R31): with INIT_DONE the lines are configured and idle, the clock runs
and the configuration is well formed; without it the lines are unconfigured and the clock is off; CAUSE and FINFO are 0
exactly as R31 says. -/
def State.StatusInv (s : State) : Prop :=
  (s.initDone = true → s.dir = configuredDirs ∧ s.line.dclk = false ∧ s.line.le = false ∧ s.gclkEn = true ∧
    s.build.configOk s.cfgNdev.toNat s.cfgWidth.toNat = true) ∧
  (s.initDone = false → s.dir = resetDirs ∧ s.gclkEn = false) ∧
  (s.faulted = false → s.cause = 0 ∧ s.finfo = 0) ∧
  (s.faulted = true → s.cause ≠ 0)

/-- The frame buffer is in canonical form, lists cells of the grid only (R60, R68), and each value it lists is a natural
below 2^CELL_BITS (R32, R66). -/
def State.MemoryInv (s : State) : Prop := s.fb.wf ∧ ∀ p ∈ s.fb, p.1 < s.build.cells ∧ p.2 < 2 ^ s.build.cellBits

/-- Every LE-high window of the trace held 1 or 3 DCLK pulses and none is open (R144, R22). -/
def State.PulseInv (s : State) : Prop :=
  (Probe.start.after false s.trace).dclk = false ∧ (Probe.start.after false s.trace).le = false ∧
  ∀ n ∈ pulsesOf (protocolTrace s.trace), n = 1 ∨ n = 3

/-- The trace keeps the orderings and the distances on the wire (R191, R240, R241, R247), and ends with both lines idle
and LE settled. -/
def State.WireInv (s : State) : Prop :=
  ∃ x, (Wire.start s.build).run s.build s.trace = some x ∧ x.dclk = false ∧ x.le = false ∧ s.build.tLeNs ≤ x.sinceLe

/-- R74 (a) and (b): no `Gclk` event precedes `GclkOn`, the `Gclk` events alternate from `Gclk(1)`, and GCLK stands at
the last of them while the generator is on. -/
def State.GclkInv (s : State) : Prop :=
  (s.gclkEn = false → gclkTrace s.trace = []) ∧
  (s.gclkEn = true → .gclkOn s.build.gclkHz s.build.gclkDutyPct ∈ s.trace ∧
    ∃ k, gclkTrace s.trace = gclkEvents false k ∧ s.line.gclk = gclkLevel false k) ∧
  (∀ before after, s.trace = before ++ after → .gclkOn s.build.gclkHz s.build.gclkDutyPct ∉ before →
    gclkTrace before = [])

/-- The rest of the program, from `pc` on, is admitted (R76). -/
def State.Admitted (s : State) : Prop := admitted (s.prog.drop s.pc) = true

-- Frames

/-- Every csr is as before (R26). -/
def SameCsrs (s t : State) : Prop :=
  t.cfgNdev = s.cfgNdev ∧ t.cfgWidth = s.cfgWidth ∧ t.status = s.status ∧ t.cause = s.cause ∧ t.finfo = s.finfo

/-- Every frame-buffer cell reads as before. -/
def SameCells (s t : State) : Prop := ∀ a, t.fb.read a = s.fb.read a

/-- GCLK and the `Gclk` events of the trace are moved by generator steps only, by none while GCLK_EN = 0 (R23, R221). -/
def GclkByGenerator (s t : State) : Prop :=
  ∃ k, gclkTrace t.trace = gclkTrace s.trace ++ gclkEvents s.line.gclk k ∧
    t.line.gclk = gclkLevel s.line.gclk k ∧ (s.gclkEn = false → k = 0)

/-- The frame of a command that shifts and pulses: only SDI, DCLK, LE, the trace and `pc` are its own; GCLK belongs to the
generator and SDO to the chain. -/
def WireFrame (s t : State) : Prop :=
  SameCsrs s t ∧ SameCells s t ∧ t.dir = s.dir ∧ t.prog = s.prog ∧ t.build = s.build ∧ GclkByGenerator s t ∧
    s.trace <+: t.trace

/-- The frame of a frame-buffer command of `len` words: `pc` moves on, cells may change, and nothing else does. -/
def StoreFrame (s t : State) (len : Nat) : Prop := t = { s with fb := t.fb, pc := s.pc + len }

-- Views two runs may share

/-- Everything the two states hold is equal but GCLK's level, SDO's level, the environment's counter and the `Gclk`
events of the trace (R72). -/
def SameButGclk (s t : State) : Prop :=
  t = { s with line := { s.line with gclk := t.line.gclk, sdo := t.line.sdo }, trace := t.trace, env := t.env } ∧
  commandTrace t.trace = commandTrace s.trace

/-- Everything the spec gives a value is equal: lines and csrs through the accessors that show "no value" (R35), and the
rest of the state. -/
def SameValues (s t : State) : Prop :=
  (∀ l, t.pin l = s.pin l) ∧ (∀ c, t.csr c = s.csr c) ∧ t.dir = s.dir ∧ t.pc = s.pc ∧ t.prog = s.prog ∧ t.fb = s.fb ∧
  t.trace = s.trace ∧ t.env = s.env ∧ t.build = s.build

/-- Two outcomes of the same kind, next states related by `r`. -/
def OutcomesAgree (r : State → State → Prop) (x y : Host.Outcome State Fault Refusal) : Prop :=
  match x, y with
  | .next s, .next t => r s t
  | .fault a, .fault b => a = b
  | .refused a, .refused b => a = b
  | _, _ => False

end Sys2Proof.Machine
end

