-- ==== Sys2Proof/Certificates/Slice0/Obligations.lean ====
section
/-! DEFINITION. The statements for the provers, from the numbered rules of spec/. Where a statement rests on a value or a
reading of the model's own, its docstring names the log entry. The premise `s.build.wellFormed = true` says that the build
parameters have the values and domains R6 to R8 give them (NCH = 16, SLOTS = 4, CELL_BITS = 16, LATCH_PULSES = 1,
COMMIT_PULSES = 3, CH_ORDER a bijection); reset meets it and no step changes the parameters. The timing parameters are
arguments (D25) and may have any value. -/

open Sys2Proof Sys2Proof.Machine

-- Reset

/-- The reset table of R35, for the reset event (R235) in any state and for `State.reset`: through the accessors a line,
CFG_NDEV and CFG_WIDTH have no value, and so has every cell. -/
def Obligations.ResetPutsEverythingAtItsResetValue : Prop :=
  ∀ s t : State, s.build.wellFormed = true → t = s.resetEvent ∨ t = State.reset →
    t.dir = resetDirs ∧ (∀ l, t.pin l = none) ∧ t.pc = 0 ∧
    t.csr .cfgNdev = none ∧ t.csr .cfgNch = some 16 ∧ t.csr .cfgWidth = none ∧
    t.csr .status = some 0 ∧ t.csr .cause = some 0 ∧ t.csr .finfo = some 0 ∧
    t.initDone = false ∧ t.faulted = false ∧ t.gclkEn = false ∧
    (∀ a, t.fb.read a = none) ∧ t.trace = []

/-- Every invariant stated below holds of the machine right after reset. -/
def Obligations.ResetStateMeetsEveryInvariant : Prop :=
  State.reset.StatusInv ∧ State.reset.MemoryInv ∧ State.reset.PulseInv ∧ State.reset.WireInv ∧
  State.reset.GclkInv ∧ State.reset.Admitted ∧ State.reset.build.wellFormed = true ∧
  State.reset.build.tBitNs ≤ State.reset.build.tLeNs

-- Encoding

/-- R98, last paragraph: `decode(encode(c)) = c` for every abstract command, whatever words follow. -/
def Obligations.DecodeOfEncodeIsTheCommand : Prop :=
  ∀ (i : Instr) (rest : List Word), decode (encode i ++ rest) = .command i rest

/-- No bit of an accepted encoding is dropped: the words a command is read from are the words it encodes to. -/
def Obligations.DecodedWordsAreTheEncoding : Prop :=
  ∀ (ws rest : List Word) (i : Instr), decode ws = .command i rest → ws = encode i ++ rest

/-- R98, R100: a first word that selects a row of the opcode table decodes to that row's command, and one that selects
none is exactly an illegal word (with enough words after it that no command is cut short). -/
def Obligations.IllegalWordsAreThoseNoRowSelects : Prop :=
  ∀ (w0 w1 w2 : Word) (rest : List Word),
    (∀ r ∈ opcodeTable, r.selects w0 = true → ∃ i rest', decode (w0 :: w1 :: w2 :: rest) = .command i rest' ∧
      i.mnemonic = r.mnemonic ∧ i.words = r.words) ∧
    ((∀ r ∈ opcodeTable, r.selects w0 = false) → decode (w0 :: w1 :: w2 :: rest) = .illegal w0)

/-- R91: the length is 3 for OP 0x10 and 0x11 and 1 for every other command, a function of OP alone, and every bit
pattern of the second and third word is legal data. -/
def Obligations.LengthIsAFunctionOfTheOpcode : Prop :=
  (∀ (w0 : Word) (ws rest : List Word) (i : Instr), decode (w0 :: ws) = .command i rest →
    (w0 :: ws).length = (if opcodeOf w0 = 0x10#8 ∨ opcodeOf w0 = 0x11#8 then 3 else 1) + rest.length) ∧
  (∀ (w0 w1 w2 v1 v2 : Word) (rest : List Word) (i : Instr), opcodeOf w0 = 0x10#8 ∨ opcodeOf w0 = 0x11#8 →
    decode (w0 :: w1 :: w2 :: rest) = .command i rest → ∃ j, decode (w0 :: v1 :: v2 :: rest) = .command j rest)

/-- Words written out in the vectors of 95_test_vectors.md (V-ENC, V-DEC) decode as they say. -/
def Obligations.WordsOfTheVectorsDecode : Prop :=
  decode [0x010C0001#32] = .command (.init 1 12) [] ∧
  decode [0x02000001#32] = .command (.shiftBit 1) [] ∧
  decode [0x030800A5#32] = .command (.shiftValue 0xA5 8) [] ∧
  decode [0x05000000#32] = .command .commit [] ∧
  decode [0x08008000#32] = .command (.setUniform 0x8000) [] ∧
  decode [0x10001003#32, 0xAAAABBBB#32, 0xCCCCDDDD#32] =
    .command (.fbSetPixel 1 3 0xAAAA 0xBBBB 0xCCCC 0xDDDD) [] ∧
  decode [0x11000000#32, 0x04000000#32, 0x05000000#32] = .command (.fbFill 0x0400 0 0x0500 0) [] ∧
  decode [0x02000002#32] = .illegal 0x02000002#32 ∧
  decode [0x10000000#32, 0#32] = .cutShort

-- Delivery and the step

/-- R76: the step executes the command found at `pc`, from the state in which the environment has moved; that move
touches nothing but GCLK, SDO, the `Gclk` events and the model's counter (R23, R72; log entry 1). -/
def Obligations.StepRunsTheCommandAtPc : Prop :=
  ∀ (s : State) (i : Instr) (rest : List Word), s.fetch = .command i rest →
    step s = exec i s.environment ∧ SameButGclk s s.environment

/-- R100: an illegal word at `pc` raises CV_ILLEGAL with FINFO = the word. -/
def Obligations.IllegalWordAtPcFaults : Prop :=
  ∀ (s : State) (w0 : Word), s.faulted = false → s.fetch = .illegal w0 →
    step s = .next (s.environment.raise .illegal w0)

/-- R76, R236 as the model reads them (log entry 8): when no word is left at `pc` the controller waits, and only the
environment moves. -/
def Obligations.EndedProgramWaitsForTheHost : Prop :=
  ∀ s : State, s.prog.length ≤ s.pc → step s = .next s.environment ∧ SameButGclk s s.environment

/-- R76: a program of whole commands with a command cut short at its end is refused when it is presented, one of whole
commands is accepted, and a command cut short at `pc` is refused. The model's reading (log entry 10): a program is accepted
up to an illegal word, whatever stands behind it, because a run halts there. -/
def Obligations.CutShortProgramsAreRefused : Prop :=
  (∀ (s : State) (is : List Instr) (ws : List Word), decode ws = .cutShort →
    s.load (assemble is ++ ws) = .refused .programCutShort) ∧
  (∀ (s : State) (is : List Instr), s.load (assemble is) = .next { s with prog := assemble is }) ∧
  (∀ (s : State) (is : List Instr) (ws : List Word) (w0 : Word), decode ws = .illegal w0 →
    s.load (assemble is ++ ws) = .next { s with prog := assemble is ++ ws }) ∧
  (∀ s : State, s.faulted = false → s.fetch = .cutShort → step s = .refused .programCutShort)

-- Completion of the commands, with their effects and frames

/-- SHIFT_BIT in the running phase (R131, R132): exactly the five events, the levels on return, `pc` + 1, and nothing
else. -/
def Obligations.ShiftBitCompletes : Prop :=
  ∀ (s : State) (bit : BitVec 1), s.Running → ∃ t, exec (.shiftBit bit) s = .next t ∧
    commandTrace t.trace = commandTrace s.trace ++
      [.set .sdi (bit == 1#1), .wait s.build.tBitNs, .set .dclk true, .wait s.build.tBitNs, .set .dclk false] ∧
    t.line.sdi = (bit == 1#1) ∧ t.line.dclk = false ∧ t.line.le = s.line.le ∧ t.pc = s.pc + 1 ∧ WireFrame s t

/-- SHIFT_VALUE in the running phase (R133, R134), for every value and every width: the bits of `value` from position
width-1 down to 0, each as the five events of a shifted bit. -/
def Obligations.ShiftValueCompletes : Prop :=
  ∀ (s : State) (value : BitVec 16) (width : BitVec 8), s.Running → ∃ t, exec (.shiftValue value width) s = .next t ∧
    commandTrace t.trace = commandTrace s.trace ++
      (List.range width.toNat).flatMap (fun i =>
        [.set .sdi (value.toNat.testBit (width.toNat - 1 - i)), .wait s.build.tBitNs, .set .dclk true,
         .wait s.build.tBitNs, .set .dclk false]) ∧
    (0 < width.toNat → t.line.sdi = value.toNat.testBit 0 ∧ t.line.dclk = false) ∧
    (width.toNat = 0 → t.line.sdi = s.line.sdi ∧ t.line.dclk = s.line.dclk) ∧
    t.line.le = s.line.le ∧ t.pc = s.pc + 1 ∧ WireFrame s t

/-- LATCH in the running phase (R142): its eleven events, one DCLK pulse under LE high. -/
def Obligations.LatchCompletes : Prop :=
  ∀ s : State, s.build.wellFormed = true → s.Running → ∃ t, exec .latch s = .next t ∧
    commandTrace t.trace = commandTrace s.trace ++
      [.set .dclk false, .wait s.build.tLeNs, .set .le true, .wait s.build.tLeNs, .set .dclk true,
       .wait s.build.tBitNs, .set .dclk false, .wait s.build.tBitNs, .wait s.build.tLeNs, .set .le false,
       .wait s.build.tLeNs] ∧
    t.line.sdi = s.line.sdi ∧ t.line.dclk = false ∧ t.line.le = false ∧ t.pc = s.pc + 1 ∧ WireFrame s t

/-- COMMIT in the running phase (R143): its nineteen events, three DCLK pulses under LE high. -/
def Obligations.CommitCompletes : Prop :=
  ∀ s : State, s.build.wellFormed = true → s.Running → ∃ t, exec .commit s = .next t ∧
    commandTrace t.trace = commandTrace s.trace ++
      [.set .dclk false, .wait s.build.tLeNs, .set .le true, .wait s.build.tLeNs] ++
      (List.range 3).flatMap
        (fun _ => [.set .dclk true, .wait s.build.tBitNs, .set .dclk false, .wait s.build.tBitNs]) ++
      [.wait s.build.tLeNs, .set .le false, .wait s.build.tLeNs] ∧
    t.line.sdi = s.line.sdi ∧ t.line.dclk = false ∧ t.line.le = false ∧ t.pc = s.pc + 1 ∧ WireFrame s t

/-- CLEAR in the running phase (R150, R151): one round per configured device, sixteen zero values and a latch, then one
commit. -/
def Obligations.ClearCompletes : Prop :=
  ∀ s : State, s.build.wellFormed = true → s.Running → ∃ t, exec .clear s = .next t ∧
    commandTrace t.trace = commandTrace s.trace ++
      (List.range s.cfgNdev.toNat).flatMap (fun _ =>
        (List.range 16).flatMap (fun _ => actionEvents (shiftValue s.build 0 s.cfgWidth.toNat)) ++
          actionEvents (lePulse s.build 1)) ++
      actionEvents (lePulse s.build 3) ∧
    (0 < s.cfgNdev.toNat → 0 < s.cfgWidth.toNat → t.line.sdi = false) ∧
    t.line.dclk = false ∧ t.line.le = false ∧ t.pc = s.pc + 1 ∧ WireFrame s t

/-- SEND_FRAME in the running phase when every cell of the frame holds a value within MAXV (R152, R153, R154): devices
last first, channels in the order CH_ORDER, then one latch and one commit. `val d c` names the value of the cell that
feeds channel c of device d. -/
def Obligations.SendFrameCompletes : Prop :=
  ∀ (s : State) (val : Nat → Nat → Nat), s.build.wellFormed = true → s.Running →
    (∀ d < s.cfgNdev.toNat, ∀ c < 16, s.build.fbAddr d c < s.build.cells ∧
      s.fb.read (s.build.fbAddr d c) = some (val d c) ∧ val d c ≤ 2 ^ s.cfgWidth.toNat - 1) →
    ∃ t, exec .sendFrame s = .next t ∧
      commandTrace t.trace = commandTrace s.trace ++
        (List.range s.cfgNdev.toNat).reverse.flatMap (fun d =>
          (List.range 16).flatMap (fun j =>
            actionEvents (shiftValue s.build (val d (s.build.chOrderAt j)) s.cfgWidth.toNat))) ++
        actionEvents (lePulse s.build 1) ++ actionEvents (lePulse s.build 3) ∧
      (0 < s.cfgNdev.toNat → 0 < s.cfgWidth.toNat → t.line.sdi = (val 0 (s.build.chOrderAt 15)).testBit 0) ∧
      t.line.dclk = false ∧ t.line.le = false ∧ t.pc = s.pc + 1 ∧ WireFrame s t

/-- SET_UNIFORM in the running phase with a value within MAXV (R153, R156): the value once for every channel of every
device, then one latch and one commit. -/
def Obligations.SetUniformCompletes : Prop :=
  ∀ (s : State) (value : BitVec 16), s.build.wellFormed = true → s.Running →
    value.toNat ≤ 2 ^ s.cfgWidth.toNat - 1 → ∃ t, exec (.setUniform value) s = .next t ∧
      commandTrace t.trace = commandTrace s.trace ++
        (List.range (s.cfgNdev.toNat * 16)).flatMap
          (fun _ => actionEvents (shiftValue s.build value.toNat s.cfgWidth.toNat)) ++
        actionEvents (lePulse s.build 1) ++ actionEvents (lePulse s.build 3) ∧
      (0 < s.cfgNdev.toNat → 0 < s.cfgWidth.toNat → t.line.sdi = value.toNat.testBit 0) ∧
      t.line.dclk = false ∧ t.line.le = false ∧ t.pc = s.pc + 1 ∧ WireFrame s t

/-- A successful INIT (R121, R125): from a controller whose STATUS is 0 (the state INIT's checks and R30 leave it), with
a configuration R122 calls well formed. The ten events of steps 2 to 4 are followed by the clear; the protocol trace, the
number of events and the state are those of R125. GCLK starts from low, so its first event is `Gclk(1)` (R123). -/
def Obligations.InitCompletes : Prop :=
  ∀ (s : State) (ndev : BitVec 16) (width : BitVec 8), s.build.wellFormed = true → s.status = 0 →
    s.build.configOk ndev.toNat width.toNat = true →
    ∃ t ev, exec (.init ndev width) s = .next t ∧ commandTrace t.trace = commandTrace s.trace ++ ev ∧
      ev.take 10 = [.dir .sdi .out, .dir .dclk .out, .dir .gclk .out, .dir .le .out, .dir .sdo .input,
        .set .sdi false, .set .dclk false, .set .gclk false, .set .le false,
        .gclkOn s.build.gclkHz s.build.gclkDutyPct] ∧
      (∀ p : Probe, p.dclk = false → p.le = false → protocolFrom false p ev =
        (List.range ndev.toNat).flatMap
          (fun _ => List.replicate (16 * width.toNat) (.shift false) ++ [.lePulse 1]) ++ [.lePulse 3]) ∧
      ev.length = 5 + 4 + 1 + ndev.toNat * (5 * 16 * width.toNat + 11) + 19 ∧
      t.dir = { sdi := .out, dclk := .out, gclk := .out, le := .out, sdo := .input } ∧
      t.line.sdi = false ∧ t.line.dclk = false ∧ t.line.le = false ∧
      (∃ k, gclkTrace t.trace = gclkTrace s.trace ++ gclkEvents false k ∧ t.line.gclk = gclkLevel false k) ∧
      t.csr .cfgNdev = some ndev.toNat ∧ t.csr .cfgWidth = some width.toNat ∧ t.status = 0b101#3 ∧
      t.cause = s.cause ∧ t.finfo = s.finfo ∧ SameCells s t ∧ t.prog = s.prog ∧ t.build = s.build ∧
      s.trace <+: t.trace ∧ t.pc = s.pc + 1

/-- FB_SET_PIXEL inside the grid, in any phase but halted (R165, R166): the four slots of the pixel, R, G, B, W at the
addresses of R61, every other cell as before, and no line event. -/
def Obligations.FbSetPixelCompletes : Prop :=
  ∀ (s : State) (row col : BitVec 12) (r g b w : BitVec 16), s.faulted = false → row.toNat < s.build.rows →
    col.toNat < s.build.cols → ∃ t, exec (.fbSetPixel row col r g b w) s = .next t ∧
      t.fb.read (s.build.cellAddr row.toNat col.toNat 0) = some r.toNat ∧
      t.fb.read (s.build.cellAddr row.toNat col.toNat 1) = some g.toNat ∧
      t.fb.read (s.build.cellAddr row.toNat col.toNat 2) = some b.toNat ∧
      t.fb.read (s.build.cellAddr row.toNat col.toNat 3) = some w.toNat ∧
      (∀ a, (∀ slot < 4, a ≠ s.build.cellAddr row.toNat col.toNat slot) → t.fb.read a = s.fb.read a) ∧
      StoreFrame s t 3

/-- FB_FILL in any phase but halted (R165, R167): every cell of every pixel, nothing outside the grid, no line event. -/
def Obligations.FbFillCompletes : Prop :=
  ∀ (s : State) (r g b w : BitVec 16), s.build.wellFormed = true → s.faulted = false →
    ∃ t, exec (.fbFill r g b w) s = .next t ∧
    (∀ row < s.build.rows, ∀ col < s.build.cols,
      t.fb.read (s.build.cellAddr row col 0) = some r.toNat ∧ t.fb.read (s.build.cellAddr row col 1) = some g.toNat ∧
      t.fb.read (s.build.cellAddr row col 2) = some b.toNat ∧
      t.fb.read (s.build.cellAddr row col 3) = some w.toNat) ∧
    (∀ a, s.build.cells ≤ a → t.fb.read a = s.fb.read a) ∧ StoreFrame s t 3

/-- FB_CLEAR in any phase but halted (R168): every cell reads 0, nothing outside the grid, no line event. -/
def Obligations.FbClearCompletes : Prop :=
  ∀ s : State, s.build.wellFormed = true → s.faulted = false → ∃ t, exec .fbClear s = .next t ∧
    (∀ a < s.build.cells, t.fb.read a = some 0) ∧ (∀ a, s.build.cells ≤ a → t.fb.read a = s.fb.read a) ∧
    StoreFrame s t 1

-- Contract violations

/-- R206 check 2: each Bus Driver command but INIT raises CV_UNINIT before a successful INIT. -/
def Obligations.UninitialisedCommandsFault : Prop :=
  ∀ s : State, s.Fresh → ∀ i : Instr,
    (i = .latch ∨ i = .commit ∨ i = .clear ∨ i = .sendFrame ∨ (∃ b, i = .shiftBit b) ∨
      (∃ v w, i = .shiftValue v w) ∨ ∃ v, i = .setUniform v) →
    exec i s = .next (s.raise .uninit i.firstWord)

/-- R121, R122, R124: a second INIT raises CV_REINIT, whatever its operands; a first one raises CV_CONFIG exactly when
its configuration is not well formed as R122 lists it. FB_MAP is the default map when it has its values on the chain,
however it is written down (log entry 6). -/
def Obligations.InitChecksInOrder : Prop :=
  ∀ (s : State) (ndev : BitVec 16) (width : BitVec 8), s.build.wellFormed = true → s.faulted = false →
    (s.initDone = true → exec (.init ndev width) s = .next (s.raise .reinit (Instr.init ndev width).firstWord)) ∧
    (s.initDone = false →
      ¬ (1 ≤ ndev.toNat ∧ 1 ≤ width.toNat ∧ width.toNat ≤ 16 ∧
        (∀ d < ndev.toNat, ∀ c < 16, s.build.fbAddr d c < s.build.rows * s.build.cols * 4) ∧
        ((∀ d < ndev.toNat, ∀ c < 16, s.build.fbAddr d c = d * 16 + c) →
          s.build.rows * s.build.cols * 4 = ndev.toNat * 16)) →
      exec (.init ndev width) s = .next (s.raise .config (Instr.init ndev width).firstWord)) ∧
    (s.initDone = false →
      (1 ≤ ndev.toNat ∧ 1 ≤ width.toNat ∧ width.toNat ≤ 16 ∧
        (∀ d < ndev.toNat, ∀ c < 16, s.build.fbAddr d c < s.build.rows * s.build.cols * 4) ∧
        ((∀ d < ndev.toNat, ∀ c < 16, s.build.fbAddr d c = d * 16 + c) →
          s.build.rows * s.build.cols * 4 = ndev.toNat * 16)) →
      ∃ t, exec (.init ndev width) s = .next t ∧ t.initDone = true ∧ t.faulted = false)

/-- R166, R206 check 3: a pixel outside the grid raises CV_INDEX; R156: a value above MAXV raises CV_RANGE. -/
def Obligations.IndexAndUniformRangeFault : Prop :=
  (∀ (s : State) (row col : BitVec 12) (r g b w : BitVec 16), s.faulted = false →
    (s.build.rows ≤ row.toNat ∨ s.build.cols ≤ col.toNat) → exec (.fbSetPixel row col r g b w) s =
      .next (s.raise .index (Instr.fbSetPixel row col r g b w).firstWord)) ∧
  (∀ (s : State) (value : BitVec 16), s.Running → 2 ^ s.cfgWidth.toNat - 1 < value.toNat →
    exec (.setUniform value) s = .next (s.raise .range (Instr.setUniform value).firstWord))

/-- R152, R210: SEND_FRAME's scan. The first offending cell in transmission order decides, "no value" before "above
MAXV", and the frame is not sent; a mapped address that is no cell is the model's own stop (R60, R68; log entry 11). -/
def Obligations.FirstOffendingCellDecides : Prop :=
  ∀ (s : State) (good rest : List Nat) (a : Nat), s.Running →
    s.build.sendCells s.cfgNdev.toNat = good ++ a :: rest →
    (∀ x ∈ good, x < s.build.cells ∧ ∃ v, s.fb.read x = some v ∧ v ≤ 2 ^ s.cfgWidth.toNat - 1) →
    (a < s.build.cells → s.fb.read a = none →
      exec .sendFrame s = .next (s.raise .unwritten Instr.sendFrame.firstWord)) ∧
    (a < s.build.cells → (∃ v, s.fb.read a = some v ∧ 2 ^ s.cfgWidth.toNat - 1 < v) →
      exec .sendFrame s = .next (s.raise .range Instr.sendFrame.firstWord)) ∧
    (s.build.cells ≤ a → exec .sendFrame s = .fault (.noSuchCell a))

/-- R152, R153: the transmission order of the scan: last device first, channels in the order CH_ORDER, and CH_ORDER
reaches every channel once; R62: the default map feeds channel c of device d from cell d*16 + c. -/
def Obligations.SendCellsFollowTransmissionOrder : Prop :=
  ∀ (b : Build) (n d j : Nat), b.wellFormed = true → d < n → j < 16 →
    (b.sendCells n).length = n * 16 ∧
    (b.sendCells n)[(n - 1 - d) * 16 + j]? = some (b.fbAddr d (b.chOrderAt j)) ∧
    b.chOrder[j]? = some (b.chOrderAt j) ∧ (∃ i, i < 16 ∧ b.chOrderAt i = j ∧ ∀ k < 16, b.chOrderAt k = j → k = i) ∧
    (b.fbMap = .linear → b.fbAddr d j = d * 16 + j)

/-- R207, R208: whatever command takes a fault, fault entry sets FAULT, CAUSE (the code R208 gives the cause) and FINFO
(the command's first word) and appends the one event `Fault(cause)`; `pc`, INIT_DONE, GCLK_EN, the configuration, lines,
directions and cells keep their values. The same holds of an illegal word. -/
def Obligations.FaultEntryIsPrecise : Prop :=
  ∀ (s t : State) (w0 : Word), s.faulted = false → t.faulted = true →
    ((∃ i, exec i s = .next t ∧ w0 = i.firstWord) ∨ execIllegal w0 s = .next t) →
    ∃ c : Cause, t.status = s.status ||| 0b010#3 ∧
      (c, t.cause) ∈ [(Cause.uninit, 1#3), (.reinit, 2#3), (.config, 3#3), (.index, 4#3), (.range, 5#3),
        (.unwritten, 6#3), (.illegal, 7#3)] ∧ t.finfo = w0 ∧
      t.trace = s.trace ++ [.fault c] ∧ t.pc = s.pc ∧ t.line = s.line ∧ t.dir = s.dir ∧
      t.initDone = s.initDone ∧ t.gclkEn = s.gclkEn ∧ t.cfgNdev = s.cfgNdev ∧ t.cfgWidth = s.cfgWidth ∧
      t.fb = s.fb ∧ t.prog = s.prog ∧ t.build = s.build ∧
      (s.StatusInv → t.initDone = true → t.line.dclk = false ∧ t.line.le = false)

/-- R212: a halted controller accepts no command and no word; a step leaves it halted with every output line but GCLK at
its level, GCLK still moved by its generator; only reset clears FAULT. That a step of a halted controller answers a next
state is the model's reading (log entry 9). -/
def Obligations.HaltedControllerStaysHalted : Prop :=
  ∀ s : State, s.faulted = true →
    (∀ i, exec i s = .next s) ∧ (∀ w0, execIllegal w0 s = .next s) ∧
    (∃ t, step s = .next t ∧ t.faulted = true ∧ SameButGclk s t ∧ GclkByGenerator s t) ∧
    s.resetEvent.faulted = false

-- Invariants and whole-machine rules

/-- R21, R22, R30, R31: a step keeps what the status bits stand for, among it the idle levels of DCLK and LE at every
command boundary. -/
def Obligations.StepKeepsTheStatusInvariant : Prop :=
  ∀ s t : State, s.build.wellFormed = true → s.StatusInv → step s = .next t → t.StatusInv

/-- R60, R68: a step keeps the frame buffer canonical and inside the grid; R32, R66: and its values below
2^CELL_BITS. -/
def Obligations.StepKeepsTheMemoryInvariant : Prop :=
  ∀ s t : State, s.build.wellFormed = true → s.MemoryInv → step s = .next t → t.MemoryInv

/-- R144: a step adds no LE-high window with a count other than 1 or 3. -/
def Obligations.StepKeepsPulseCountsOneOrThree : Prop :=
  ∀ s t : State, s.build.wellFormed = true → s.PulseInv → step s = .next t → t.PulseInv

/-- R191, R240, R241, R247: a step keeps the orderings on the wire: data before clock, DCLK low around LE transitions, and
the minimum distances. The premise T_BIT_NS ≤ T_LE_NS holds of the document's 1000 and 2000 (R6); with a T_LE_NS below
half of T_BIT_NS a latch straight after a shifted bit would leave DCLK low for less than T_BIT_NS. -/
def Obligations.StepKeepsTheWireOrderings : Prop :=
  ∀ s t : State, s.build.tBitNs ≤ s.build.tLeNs → s.WireInv → step s = .next t → t.WireInv

/-- R74 (a), (b): a step keeps the order of the `Gclk` events. -/
def Obligations.StepKeepsTheClockOrder : Prop :=
  ∀ s t : State, s.StatusInv → s.GclkInv → step s = .next t → t.GclkInv

/-- R76, R24: in a state that meets the invariant, an admitted program never stops the machine: a step answers a next
state, and the rest of the program is admitted there. It rests on readings of the model: at the end of the program and in
a halted controller a step answers a next state (log entries 8 and 9), and what stands behind an illegal word does not
count (log entry 10). -/
def Obligations.AdmittedProgramsNeverStop : Prop :=
  ∀ s : State, s.build.wellFormed = true → s.StatusInv → s.Admitted → ∃ t, step s = .next t ∧ t.Admitted

/-- R30, R235: no step clears a bit of STATUS; R27, R29: no step changes the configuration after INIT; R75: none changes
the command stream; R24: `pc` moves by 0, 1 or 3; R33: the trace only grows. -/
def Obligations.StepNeverUndoes : Prop :=
  ∀ s t : State, step s = .next t →
    (s.initDone = true → t.initDone = true) ∧ (s.faulted = true → t.faulted = true) ∧
    (s.gclkEn = true → t.gclkEn = true) ∧
    (s.initDone = true → t.cfgNdev = s.cfgNdev ∧ t.cfgWidth = s.cfgWidth) ∧
    t.prog = s.prog ∧ t.build = s.build ∧ (t.pc = s.pc ∨ t.pc = s.pc + 1 ∨ t.pc = s.pc + 3) ∧ s.trace <+: t.trace

/-- R32, R60, R65: only the three frame-buffer commands write cells; R165: they make no line event, so that but for
`Fault` events their trace is as before. -/
def Obligations.OnlyFrameBufferCommandsWriteCells : Prop :=
  ∀ (s t : State) (i : Instr), exec i s = .next t →
    (i.isFrameBuffer = true →
      t.line = s.line ∧ t.dir = s.dir ∧ (t.trace = s.trace ∨ ∃ c, t.trace = s.trace ++ [.fault c])) ∧
    (i.isFrameBuffer = false → SameCells s t)

/-- R72: no command depends on the phase of GCLK, on SDO or on the interleaving: of two states equal but for those, the
steps agree but for those, command trace included. -/
def Obligations.StepsIgnoreTheEnvironment : Prop :=
  ∀ s t : State, SameButGclk s t → OutcomesAgree SameButGclk (step s) (step t)

/-- R35, U2, U3: what has no value is never read. Of two states with the same values, whatever the stored bits of
unconfigured lines and of the configuration before INIT (the model's own, log entries 2, 3 and 4), the steps agree on
every value. -/
def Obligations.StateWithoutValueIsNeverRead : Prop :=
  ∀ s t : State, s.StatusInv → t.StatusInv → SameValues s t → OutcomesAgree SameValues (step s) (step t)

-- The bodies on the wire

/-- R133: `shift_value(v, w)` for every v and w: the bit at shift index i is `(v >> (w-1-i)) & 1`, w DCLK rising edges,
5w events, 3w of them `Set`, nothing for w = 0; it shifts only. -/
def Obligations.ShiftValueSendsMsbFirst : Prop :=
  ∀ (b : Build) (v w : Nat) (p : Probe), p.dclk = false → p.le = false →
    protocolFrom false p (actionEvents (shiftValue b v w)) =
      (List.range w).map (fun i => .shift (decide ((v >>> (w - 1 - i)) % 2 = 1))) ∧
    (shiftValue b v w).length = 5 * w ∧ setCount (actionEvents (shiftValue b v w)) = 3 * w ∧
    dclkRises (actionEvents (shiftValue b v w)) = w ∧ shiftValue b v 0 = [] ∧
    shiftValue b v w = (List.range w).flatMap (fun i => shiftBit b (decide ((v >>> (w - 1 - i)) % 2 = 1)))

/-- R135: the arithmetic laws (a) to (d) of the family. -/
def Obligations.ShiftValueArithmeticLaws : Prop :=
  (∀ (b : Build) (v w : Nat) (p : Probe), p.dclk = false → p.le = false →
    bitsToNat (shiftsOf (protocolFrom false p (actionEvents (shiftValue b v w)))) = v % 2 ^ w) ∧
  (∀ (b : Build) (v w : Nat), shiftValue b v w = shiftValue b (v % 2 ^ w) w) ∧
  (∀ (b : Build) (v x y : Nat), shiftValue b v (x + y) = shiftValue b (v >>> y) x ++ shiftValue b (v % 2 ^ y) y) ∧
  (∀ v w : Nat, maxValue w = 2 ^ w - 1 ∧ (v ≤ 2 ^ w - 1 → v % 2 ^ w = v))

/-- R141: `le_pulse(n)`: its events in order, their counts, its minimum duration, n rising edges all in one LE-high
window, and both lines idle on return. -/
def Obligations.LePulseIsOneWindow : Prop :=
  ∀ (b : Build) (n : Nat) (p : Probe), p.dclk = false → p.le = false →
    actionEvents (lePulse b n) = [.set .dclk false, .wait b.tLeNs, .set .le true, .wait b.tLeNs] ++
      (List.range n).flatMap (fun _ => [.set .dclk true, .wait b.tBitNs, .set .dclk false, .wait b.tBitNs]) ++
      [.wait b.tLeNs, .set .le false, .wait b.tLeNs] ∧
    (lePulse b n).length = 4 * n + 7 ∧ setCount (actionEvents (lePulse b n)) = 2 * n + 3 ∧
    dclkRises (actionEvents (lePulse b n)) = n ∧
    minDuration (actionEvents (lePulse b n)) = 4 * b.tLeNs + 2 * n * b.tBitNs ∧
    protocolFrom false p (actionEvents (lePulse b n)) = [.lePulse n] ∧
    (p.after false (actionEvents (lePulse b n))).dclk = false ∧ (p.after false (actionEvents (lePulse b n))).le = false

/-- R150: the protocol trace of `clear_body`, its counts and its minimum duration; SDI is driven n*16*w times, each
time to 0, and stands at 0 on return; the frame buffer is neither read nor written. -/
def Obligations.ClearBodyShape : Prop :=
  ∀ (b : Build) (n w : Nat) (p : Probe), b.wellFormed = true → p.dclk = false → p.le = false →
    protocolFrom false p (actionEvents (clearBody b n w)) =
      (List.range n).flatMap (fun _ => List.replicate (16 * w) (.shift false) ++ [.lePulse 1]) ++ [.lePulse 3] ∧
    (clearBody b n w).length = n * (5 * 16 * w + 11) + 19 ∧
    setCount (actionEvents (clearBody b n w)) = n * (3 * 16 * w + 5) + 9 ∧
    dclkRises (actionEvents (clearBody b n w)) = n * (16 * w + 1) + 3 ∧
    minDuration (actionEvents (clearBody b n w)) =
      n * (2 * 16 * w * b.tBitNs + 4 * b.tLeNs + 2 * b.tBitNs) + 4 * b.tLeNs + 6 * b.tBitNs ∧
    (actionEvents (clearBody b n w)).countP (· == .set .sdi false) = n * 16 * w ∧
    .set .sdi true ∉ actionEvents (clearBody b n w) ∧
    (0 < n → 0 < w → ∀ s : State, (s.play (clearBody b n w)).line.sdi = false) ∧
    (∀ (s : State) (m : Memory), ({ s with fb := m } : State).play (clearBody b n w) =
      { s.play (clearBody b n w) with fb := m })

/-- R153: the frame on the wire. With `k = ((N-1-d)*NCH + j)*W + i`, the k-th bit is bit W-1-i of val(d, CH_ORDER(j));
there are N*NCH*W bits, then one LE window of 1 pulse and one of 3; the counts and the minimum duration are R153's;
the default CH_ORDER is ascending. -/
def Obligations.SendBodyBitOrder : Prop :=
  ∀ (b : Build) (n w : Nat) (val : Nat → Nat → Nat) (p : Probe), b.wellFormed = true → p.dclk = false →
    p.le = false → ∃ bits : List Level,
      protocolFrom false p (actionEvents (sendBody b ((b.sendOrder n).map fun x => val x.1 x.2) w)) =
        bits.map .shift ++ [.lePulse 1, .lePulse 3] ∧
      bits.length = n * 16 * w ∧
      (∀ d i j : Nat, d < n → i < w → j < 16 →
        bits[((n - 1 - d) * 16 + j) * w + i]? = some ((val d (b.chOrderAt j)).testBit (w - 1 - i))) ∧
      (sendBody b ((b.sendOrder n).map fun x => val x.1 x.2) w).length = 5 * n * 16 * w + 30 ∧
      setCount (actionEvents (sendBody b ((b.sendOrder n).map fun x => val x.1 x.2) w)) = 3 * n * 16 * w + 14 ∧
      minDuration (actionEvents (sendBody b ((b.sendOrder n).map fun x => val x.1 x.2) w)) =
        2 * n * 16 * w * b.tBitNs + 8 * b.tLeNs + 8 * b.tBitNs ∧
      (∀ j < 16, Build.default.chOrderAt j = j)

/-- R157: SET_UNIFORM and the frame buffer. It runs the same whatever the cells hold and leaves them as they are, so it
never raises CV_UNWRITTEN (a); its command trace is that of SEND_FRAME on a frame whose mapped cells all hold the value
(b); and a following SEND_FRAME still transmits the old contents (c). -/
def Obligations.SetUniformIgnoresTheFrameBuffer : Prop :=
  ∀ (s : State) (value : BitVec 16), ∃ t, exec (.setUniform value) s = .next t ∧
    (∀ m, exec (.setUniform value) { s with fb := m } = .next { t with fb := m }) ∧ t.fb = s.fb ∧
    t ≠ s.raise .unwritten (Instr.setUniform value).firstWord ∧
    (s.build.wellFormed = true → s.Running → value.toNat ≤ 2 ^ s.cfgWidth.toNat - 1 →
      (∀ m, (∀ d < s.cfgNdev.toNat, ∀ c < 16,
          s.build.fbAddr d c < s.build.cells ∧ Memory.read m (s.build.fbAddr d c) = some value.toNat) →
        ∃ u, exec .sendFrame { s with fb := m } = .next u ∧ commandTrace u.trace = commandTrace t.trace) ∧
      (∀ u ev, exec .sendFrame s = .next u → commandTrace u.trace = commandTrace s.trace ++ ev →
        ∃ u', exec .sendFrame t = .next u' ∧ commandTrace u'.trace = commandTrace t.trace ++ ev))

/-- R104: FB_FILL v, v, v, v then SEND_FRAME completes and has the command trace of SET_UNIFORM v, and after the fill
SEND_FRAME cannot raise CV_UNWRITTEN (R167). -/
def Obligations.FillThenSendEqualsSetUniform : Prop :=
  ∀ (s : State) (v : BitVec 16), s.build.wellFormed = true → s.Running → s.StatusInv →
    v.toNat ≤ 2 ^ s.cfgWidth.toNat - 1 →
    ∃ t u x, exec (.fbFill v v v v) s = .next t ∧ exec .sendFrame t = .next u ∧ u.faulted = false ∧
      exec (.setUniform v) s = .next x ∧ commandTrace u.trace = commandTrace x.trace

/-- L1-3, R154: two SEND_FRAME commands with nothing between them transmit the same events. -/
def Obligations.SendFrameTwiceTransmitsTheSame : Prop :=
  ∀ s t : State, s.Running → exec .sendFrame s = .next t → t.faulted = false →
    ∃ ev u, commandTrace t.trace = commandTrace s.trace ++ ev ∧ exec .sendFrame t = .next u ∧
      commandTrace u.trace = commandTrace t.trace ++ ev ∧ u.pc = s.pc + 2

/-- R61, R64: the cell addresses of the grid: row-major with the slot minor, each inside the frame buffer, each address
of the frame buffer exactly one (row, col, slot). -/
def Obligations.CellAddressesNumberTheGrid : Prop :=
  ∀ b : Build, b.wellFormed = true →
    (∀ row col slot, b.cellAddr row col slot = (row * b.cols + col) * 4 + slot) ∧
    (∀ row < b.rows, ∀ col < b.cols, ∀ slot < 4, b.cellAddr row col slot < b.rows * b.cols * 4) ∧
    (∀ a < b.rows * b.cols * 4, ∃ row col slot, row < b.rows ∧ col < b.cols ∧ slot < 4 ∧
      b.cellAddr row col slot = a ∧
      ∀ row' col' slot', row' < b.rows → col' < b.cols → slot' < 4 → b.cellAddr row' col' slot' = a →
        row' = row ∧ col' = col ∧ slot' = slot)

-- The reference observer

/-- R194.1: after the clear of at least one device the observer's three vectors are zero, whatever they held. -/
def Obligations.ObserverIsZeroAfterClear : Prop :=
  ∀ (b : Build) (n w : Nat) (c : Chain) (p : Probe), b.wellFormed = true → p.dclk = false → p.le = false → 1 ≤ n →
    c.sr.length = n * 16 * w →
    c.run (protocolFrom false p (actionEvents (clearBody b n w))) =
      some { sr := List.replicate (n * 16 * w) (some false), hold := List.replicate (n * 16 * w) (some false),
             out := List.replicate (n * 16 * w) (some false) }

/-- R155, R194.2: after a frame whose values fit the width, place NCH-1-j of device d outputs val(d, CH_ORDER(j)), and
`sr` and `hold` hold the same words. -/
def Obligations.ObserverShowsTheFrame : Prop :=
  ∀ (b : Build) (n w : Nat) (val : Nat → Nat → Nat) (c : Chain) (p : Probe), b.wellFormed = true → p.dclk = false →
    p.le = false → c.sr.length = n * 16 * w → (∀ d < n, ∀ ch < 16, val d ch < 2 ^ w) →
    ∃ c', c.run (protocolFrom false p (actionEvents (sendBody b ((b.sendOrder n).map fun x => val x.1 x.2) w))) =
        some c' ∧ c'.hold = c'.sr ∧ c'.out = c'.sr ∧
      ∀ d j : Nat, d < n → j < 16 → chainWord b c'.out w d (15 - j) = some (val d (b.chOrderAt j))

/-- R193, R194.3, R194.4: a shifted value enters `sr` bit by bit, its last bit nearest, each bit moving the rest one place
down the chain and the last one out, while `hold` and `out` stay; a latch makes `hold = sr`; a commit makes `out = hold`;
and the observer stops on any other count (U6). -/
def Obligations.ObserverOnRawCommands : Prop :=
  ∀ (b : Build) (c : Chain) (p : Probe), p.dclk = false → p.le = false →
    (∀ v w, c.run (protocolFrom false p (actionEvents (shiftValue b v w))) =
      some { c with sr := ((List.range w).map (fun i => some (v.testBit i)) ++ c.sr).take c.sr.length }) ∧
    c.run (protocolFrom false p (actionEvents (lePulse b 1))) = some { c with hold := c.sr } ∧
    c.run (protocolFrom false p (actionEvents (lePulse b 3))) = some { c with out := c.hold } ∧
    (∀ n, n ≠ 1 → n ≠ 3 → c.run (protocolFrom false p (actionEvents (lePulse b n))) = none)

-- The host's pseudo-instructions

/-- R179: one PULSE is a frame for each level, FB_FILL of all four slots, SEND_FRAME and the delay D = PULSE_DELAY(f). With
S = PULSE_STEP(f) at least 1 and K = ceil(MAXV / S) the levels are 2K + 1: min(k*S, MAXV) going up, MAXV - k*S (not below
0) coming down. -/
def Obligations.PulseLevelsRiseAndFall : Prop :=
  ∀ (Freq : Type) (pulseStep pulseDelay : Freq → Nat) (f : Freq) (maxv : Nat), 1 ≤ pulseStep f → 1 ≤ maxv →
    ∃ levels : List Nat,
      hostPulse pulseStep pulseDelay maxv f = levels.flatMap (fun l =>
        [.cmd (.fbFill (BitVec.ofNat 16 l) (BitVec.ofNat 16 l) (BitVec.ofNat 16 l) (BitVec.ofNat 16 l)),
         .cmd .sendFrame, .delay (pulseDelay f)]) ∧
      levels.length = 2 * ((maxv + pulseStep f - 1) / pulseStep f) + 1 ∧
      (∀ k ≤ (maxv + pulseStep f - 1) / pulseStep f, levels[k]? = some (min (k * pulseStep f) maxv) ∧
        levels[(maxv + pulseStep f - 1) / pulseStep f + k]? = some (maxv - k * pulseStep f))

/-- R178, L1-5: CHECKER is two phases, each of which writes every pixel of the grid once, sends and waits. At every cell
the first phase writes a where row + col is even and b where it is odd, and the second phase the other of the two. -/
def Obligations.CheckerPhasesAreSwapped : Prop :=
  ∀ (build : Build) (a b : Color) (t : Nat), ∃ writes1 writes2 : List HostItem,
    hostChecker build a b t =
      (writes1 ++ [.cmd .sendFrame, .delay t]) ++ (writes2 ++ [.cmd .sendFrame, .delay t]) ∧
    writes1.length = build.rows * build.cols ∧ writes2.length = build.rows * build.cols ∧
    ∀ row < build.rows, ∀ col < build.cols,
      writes1[row * build.cols + col]? = some (if (row + col) % 2 = 0 then
        .cmd (.fbSetPixel (BitVec.ofNat 12 row) (BitVec.ofNat 12 col) a.r a.g a.b a.w) else
        .cmd (.fbSetPixel (BitVec.ofNat 12 row) (BitVec.ofNat 12 col) b.r b.g b.b b.w)) ∧
      writes2[row * build.cols + col]? = some (if (row + col) % 2 = 0 then
        .cmd (.fbSetPixel (BitVec.ofNat 12 row) (BitVec.ofNat 12 col) b.r b.g b.b b.w) else
        .cmd (.fbSetPixel (BitVec.ofNat 12 row) (BitVec.ofNat 12 col) a.r a.g a.b a.w))

/-- R177: OFF, run in the running phase, transmits the all-zero frame: the events of SET_UNIFORM 0. -/
def Obligations.OffTransmitsAllZero : Prop :=
  ∀ (s : State) (tOff : Nat), s.build.wellFormed = true → s.Running → s.StatusInv →
    hostCommands (hostOff tOff) = [.fbClear, .sendFrame] ∧
    ∃ t u x, exec .fbClear s = .next t ∧ exec .sendFrame t = .next u ∧ exec (.setUniform 0) s = .next x ∧
      u.faulted = false ∧ commandTrace u.trace = commandTrace x.trace

-- The grayscale clock

/-- R74 (c), R221: fairness. While the generator is on, some number of steps later its line has toggled again, whatever
the program does meanwhile, a halted or ended one included; and of an admitted program those steps are taken. -/
def Obligations.ClockTogglesAgain : Prop :=
  ∀ s : State, s.gclkEn = true → ∃ n,
    (∀ t, core.run n s = .next t → (gclkTrace s.trace).length < (gclkTrace t.trace).length) ∧
    (s.build.wellFormed = true → s.StatusInv → s.Admitted → ∃ t, core.run n s = .next t)
end

