-- ==== Sys2Proof/Laws/State.lean ====
section
/-! SUPPORT. Per field and per update of the state, what the field is afterwards: each true by definition, so that no
proof unfolds a record update; and the STATUS bits after each write of STATUS. -/

namespace Sys2Proof.Machine

variable (s : State)

-- State.setInitDone
@[simp] theorem State.setInitDone_line : (s.setInitDone).line = s.line := rfl
@[simp] theorem State.setInitDone_dir : (s.setInitDone).dir = s.dir := rfl
@[simp] theorem State.setInitDone_pc : (s.setInitDone).pc = s.pc := rfl
@[simp] theorem State.setInitDone_prog : (s.setInitDone).prog = s.prog := rfl
@[simp] theorem State.setInitDone_cfgNdev : (s.setInitDone).cfgNdev = s.cfgNdev := rfl
@[simp] theorem State.setInitDone_cfgWidth : (s.setInitDone).cfgWidth = s.cfgWidth := rfl
@[simp] theorem State.setInitDone_status : (s.setInitDone).status = s.status ||| 1#3 := rfl
@[simp] theorem State.setInitDone_cause : (s.setInitDone).cause = s.cause := rfl
@[simp] theorem State.setInitDone_finfo : (s.setInitDone).finfo = s.finfo := rfl
@[simp] theorem State.setInitDone_fb : (s.setInitDone).fb = s.fb := rfl
@[simp] theorem State.setInitDone_trace : (s.setInitDone).trace = s.trace := rfl
@[simp] theorem State.setInitDone_env : (s.setInitDone).env = s.env := rfl
@[simp] theorem State.setInitDone_build : (s.setInitDone).build = s.build := rfl
@[simp] theorem State.setInitDone_initDone : (s.setInitDone).initDone = true := by
  simp [State.initDone]
@[simp] theorem State.setInitDone_faulted : (s.setInitDone).faulted = s.faulted := by
  simp [State.faulted]
@[simp] theorem State.setInitDone_gclkEn : (s.setInitDone).gclkEn = s.gclkEn := by
  simp [State.gclkEn]

-- State.setFault
@[simp] theorem State.setFault_line : (s.setFault).line = s.line := rfl
@[simp] theorem State.setFault_dir : (s.setFault).dir = s.dir := rfl
@[simp] theorem State.setFault_pc : (s.setFault).pc = s.pc := rfl
@[simp] theorem State.setFault_prog : (s.setFault).prog = s.prog := rfl
@[simp] theorem State.setFault_cfgNdev : (s.setFault).cfgNdev = s.cfgNdev := rfl
@[simp] theorem State.setFault_cfgWidth : (s.setFault).cfgWidth = s.cfgWidth := rfl
@[simp] theorem State.setFault_status : (s.setFault).status = s.status ||| 2#3 := rfl
@[simp] theorem State.setFault_cause : (s.setFault).cause = s.cause := rfl
@[simp] theorem State.setFault_finfo : (s.setFault).finfo = s.finfo := rfl
@[simp] theorem State.setFault_fb : (s.setFault).fb = s.fb := rfl
@[simp] theorem State.setFault_trace : (s.setFault).trace = s.trace := rfl
@[simp] theorem State.setFault_env : (s.setFault).env = s.env := rfl
@[simp] theorem State.setFault_build : (s.setFault).build = s.build := rfl
@[simp] theorem State.setFault_initDone : (s.setFault).initDone = s.initDone := by
  simp [State.initDone]
@[simp] theorem State.setFault_faulted : (s.setFault).faulted = true := by
  simp [State.faulted]
@[simp] theorem State.setFault_gclkEn : (s.setFault).gclkEn = s.gclkEn := by
  simp [State.gclkEn]

-- State.setGclkEn
@[simp] theorem State.setGclkEn_line : (s.setGclkEn).line = s.line := rfl
@[simp] theorem State.setGclkEn_dir : (s.setGclkEn).dir = s.dir := rfl
@[simp] theorem State.setGclkEn_pc : (s.setGclkEn).pc = s.pc := rfl
@[simp] theorem State.setGclkEn_prog : (s.setGclkEn).prog = s.prog := rfl
@[simp] theorem State.setGclkEn_cfgNdev : (s.setGclkEn).cfgNdev = s.cfgNdev := rfl
@[simp] theorem State.setGclkEn_cfgWidth : (s.setGclkEn).cfgWidth = s.cfgWidth := rfl
@[simp] theorem State.setGclkEn_status : (s.setGclkEn).status = s.status ||| 4#3 := rfl
@[simp] theorem State.setGclkEn_cause : (s.setGclkEn).cause = s.cause := rfl
@[simp] theorem State.setGclkEn_finfo : (s.setGclkEn).finfo = s.finfo := rfl
@[simp] theorem State.setGclkEn_fb : (s.setGclkEn).fb = s.fb := rfl
@[simp] theorem State.setGclkEn_trace : (s.setGclkEn).trace = s.trace := rfl
@[simp] theorem State.setGclkEn_env : (s.setGclkEn).env = s.env := rfl
@[simp] theorem State.setGclkEn_build : (s.setGclkEn).build = s.build := rfl
@[simp] theorem State.setGclkEn_initDone : (s.setGclkEn).initDone = s.initDone := by
  simp [State.initDone]
@[simp] theorem State.setGclkEn_faulted : (s.setGclkEn).faulted = s.faulted := by
  simp [State.faulted]
@[simp] theorem State.setGclkEn_gclkEn : (s.setGclkEn).gclkEn = true := by
  simp [State.gclkEn]

-- State.environment
@[simp] theorem State.environment_line :
    (s.environment).line =
      { s.line with gclk := gclkLevel s.line.gclk s.gclkTicks, sdo := Config.sdoLevel s.env } := rfl
@[simp] theorem State.environment_dir : (s.environment).dir = s.dir := rfl
@[simp] theorem State.environment_pc : (s.environment).pc = s.pc := rfl
@[simp] theorem State.environment_prog : (s.environment).prog = s.prog := rfl
@[simp] theorem State.environment_cfgNdev : (s.environment).cfgNdev = s.cfgNdev := rfl
@[simp] theorem State.environment_cfgWidth : (s.environment).cfgWidth = s.cfgWidth := rfl
@[simp] theorem State.environment_status : (s.environment).status = s.status := rfl
@[simp] theorem State.environment_cause : (s.environment).cause = s.cause := rfl
@[simp] theorem State.environment_finfo : (s.environment).finfo = s.finfo := rfl
@[simp] theorem State.environment_fb : (s.environment).fb = s.fb := rfl
@[simp] theorem State.environment_trace : (s.environment).trace = s.trace ++ gclkEvents s.line.gclk s.gclkTicks := rfl
@[simp] theorem State.environment_env : (s.environment).env = s.env + 1 := rfl
@[simp] theorem State.environment_build : (s.environment).build = s.build := rfl
@[simp] theorem State.environment_initDone : (s.environment).initDone = s.initDone := rfl
@[simp] theorem State.environment_faulted : (s.environment).faulted = s.faulted := rfl
@[simp] theorem State.environment_gclkEn : (s.environment).gclkEn = s.gclkEn := rfl

-- State.emit
@[simp] theorem State.emit_line (e : Event) : (s.emit e).line = s.line := rfl
@[simp] theorem State.emit_dir (e : Event) : (s.emit e).dir = s.dir := rfl
@[simp] theorem State.emit_pc (e : Event) : (s.emit e).pc = s.pc := rfl
@[simp] theorem State.emit_prog (e : Event) : (s.emit e).prog = s.prog := rfl
@[simp] theorem State.emit_cfgNdev (e : Event) : (s.emit e).cfgNdev = s.cfgNdev := rfl
@[simp] theorem State.emit_cfgWidth (e : Event) : (s.emit e).cfgWidth = s.cfgWidth := rfl
@[simp] theorem State.emit_status (e : Event) : (s.emit e).status = s.status := rfl
@[simp] theorem State.emit_cause (e : Event) : (s.emit e).cause = s.cause := rfl
@[simp] theorem State.emit_finfo (e : Event) : (s.emit e).finfo = s.finfo := rfl
@[simp] theorem State.emit_fb (e : Event) : (s.emit e).fb = s.fb := rfl
@[simp] theorem State.emit_trace (e : Event) : (s.emit e).trace = s.trace ++ [e] := rfl
@[simp] theorem State.emit_env (e : Event) : (s.emit e).env = s.env := rfl
@[simp] theorem State.emit_build (e : Event) : (s.emit e).build = s.build := rfl
@[simp] theorem State.emit_initDone (e : Event) : (s.emit e).initDone = s.initDone := rfl
@[simp] theorem State.emit_faulted (e : Event) : (s.emit e).faulted = s.faulted := rfl
@[simp] theorem State.emit_gclkEn (e : Event) : (s.emit e).gclkEn = s.gclkEn := rfl

-- State.config
@[simp] theorem State.config_line (l : Line) (d : Dir) : (s.config l d).line = s.line := rfl
@[simp] theorem State.config_dir (l : Line) (d : Dir) : (s.config l d).dir = s.dir.set l d := rfl
@[simp] theorem State.config_pc (l : Line) (d : Dir) : (s.config l d).pc = s.pc := rfl
@[simp] theorem State.config_prog (l : Line) (d : Dir) : (s.config l d).prog = s.prog := rfl
@[simp] theorem State.config_cfgNdev (l : Line) (d : Dir) : (s.config l d).cfgNdev = s.cfgNdev := rfl
@[simp] theorem State.config_cfgWidth (l : Line) (d : Dir) : (s.config l d).cfgWidth = s.cfgWidth := rfl
@[simp] theorem State.config_status (l : Line) (d : Dir) : (s.config l d).status = s.status := rfl
@[simp] theorem State.config_cause (l : Line) (d : Dir) : (s.config l d).cause = s.cause := rfl
@[simp] theorem State.config_finfo (l : Line) (d : Dir) : (s.config l d).finfo = s.finfo := rfl
@[simp] theorem State.config_fb (l : Line) (d : Dir) : (s.config l d).fb = s.fb := rfl
@[simp] theorem State.config_trace (l : Line) (d : Dir) : (s.config l d).trace = s.trace ++ [.dir l d] := rfl
@[simp] theorem State.config_env (l : Line) (d : Dir) : (s.config l d).env = s.env := rfl
@[simp] theorem State.config_build (l : Line) (d : Dir) : (s.config l d).build = s.build := rfl
@[simp] theorem State.config_initDone (l : Line) (d : Dir) : (s.config l d).initDone = s.initDone := rfl
@[simp] theorem State.config_faulted (l : Line) (d : Dir) : (s.config l d).faulted = s.faulted := rfl
@[simp] theorem State.config_gclkEn (l : Line) (d : Dir) : (s.config l d).gclkEn = s.gclkEn := rfl

-- State.drive
@[simp] theorem State.drive_line (l : Line) (v : Level) : (s.drive l v).line = s.line.set l v := rfl
@[simp] theorem State.drive_dir (l : Line) (v : Level) : (s.drive l v).dir = s.dir := rfl
@[simp] theorem State.drive_pc (l : Line) (v : Level) : (s.drive l v).pc = s.pc := rfl
@[simp] theorem State.drive_prog (l : Line) (v : Level) : (s.drive l v).prog = s.prog := rfl
@[simp] theorem State.drive_cfgNdev (l : Line) (v : Level) : (s.drive l v).cfgNdev = s.cfgNdev := rfl
@[simp] theorem State.drive_cfgWidth (l : Line) (v : Level) : (s.drive l v).cfgWidth = s.cfgWidth := rfl
@[simp] theorem State.drive_status (l : Line) (v : Level) : (s.drive l v).status = s.status := rfl
@[simp] theorem State.drive_cause (l : Line) (v : Level) : (s.drive l v).cause = s.cause := rfl
@[simp] theorem State.drive_finfo (l : Line) (v : Level) : (s.drive l v).finfo = s.finfo := rfl
@[simp] theorem State.drive_fb (l : Line) (v : Level) : (s.drive l v).fb = s.fb := rfl
@[simp] theorem State.drive_trace (l : Line) (v : Level) : (s.drive l v).trace = s.trace ++ [.set l v] := rfl
@[simp] theorem State.drive_env (l : Line) (v : Level) : (s.drive l v).env = s.env := rfl
@[simp] theorem State.drive_build (l : Line) (v : Level) : (s.drive l v).build = s.build := rfl
@[simp] theorem State.drive_initDone (l : Line) (v : Level) : (s.drive l v).initDone = s.initDone := rfl
@[simp] theorem State.drive_faulted (l : Line) (v : Level) : (s.drive l v).faulted = s.faulted := rfl
@[simp] theorem State.drive_gclkEn (l : Line) (v : Level) : (s.drive l v).gclkEn = s.gclkEn := rfl

-- State.wait
@[simp] theorem State.wait_line (ns : Nat) : (s.wait ns).line = s.line := rfl
@[simp] theorem State.wait_dir (ns : Nat) : (s.wait ns).dir = s.dir := rfl
@[simp] theorem State.wait_pc (ns : Nat) : (s.wait ns).pc = s.pc := rfl
@[simp] theorem State.wait_prog (ns : Nat) : (s.wait ns).prog = s.prog := rfl
@[simp] theorem State.wait_cfgNdev (ns : Nat) : (s.wait ns).cfgNdev = s.cfgNdev := rfl
@[simp] theorem State.wait_cfgWidth (ns : Nat) : (s.wait ns).cfgWidth = s.cfgWidth := rfl
@[simp] theorem State.wait_status (ns : Nat) : (s.wait ns).status = s.status := rfl
@[simp] theorem State.wait_cause (ns : Nat) : (s.wait ns).cause = s.cause := rfl
@[simp] theorem State.wait_finfo (ns : Nat) : (s.wait ns).finfo = s.finfo := rfl
@[simp] theorem State.wait_fb (ns : Nat) : (s.wait ns).fb = s.fb := rfl
@[simp] theorem State.wait_trace (ns : Nat) : (s.wait ns).trace = s.trace ++ [.wait ns] := rfl
@[simp] theorem State.wait_env (ns : Nat) : (s.wait ns).env = s.env := rfl
@[simp] theorem State.wait_build (ns : Nat) : (s.wait ns).build = s.build := rfl
@[simp] theorem State.wait_initDone (ns : Nat) : (s.wait ns).initDone = s.initDone := rfl
@[simp] theorem State.wait_faulted (ns : Nat) : (s.wait ns).faulted = s.faulted := rfl
@[simp] theorem State.wait_gclkEn (ns : Nat) : (s.wait ns).gclkEn = s.gclkEn := rfl

-- State.gclkStart
@[simp] theorem State.gclkStart_line (hz duty : Nat) : (s.gclkStart hz duty).line = s.line := rfl
@[simp] theorem State.gclkStart_dir (hz duty : Nat) : (s.gclkStart hz duty).dir = s.dir := rfl
@[simp] theorem State.gclkStart_pc (hz duty : Nat) : (s.gclkStart hz duty).pc = s.pc := rfl
@[simp] theorem State.gclkStart_prog (hz duty : Nat) : (s.gclkStart hz duty).prog = s.prog := rfl
@[simp] theorem State.gclkStart_cfgNdev (hz duty : Nat) : (s.gclkStart hz duty).cfgNdev = s.cfgNdev := rfl
@[simp] theorem State.gclkStart_cfgWidth (hz duty : Nat) : (s.gclkStart hz duty).cfgWidth = s.cfgWidth := rfl
@[simp] theorem State.gclkStart_status (hz duty : Nat) : (s.gclkStart hz duty).status = s.status ||| 4#3 := rfl
@[simp] theorem State.gclkStart_cause (hz duty : Nat) : (s.gclkStart hz duty).cause = s.cause := rfl
@[simp] theorem State.gclkStart_finfo (hz duty : Nat) : (s.gclkStart hz duty).finfo = s.finfo := rfl
@[simp] theorem State.gclkStart_fb (hz duty : Nat) : (s.gclkStart hz duty).fb = s.fb := rfl
@[simp] theorem State.gclkStart_trace (hz duty : Nat) :
    (s.gclkStart hz duty).trace =
      s.trace ++ [.gclkOn hz duty] := rfl
@[simp] theorem State.gclkStart_env (hz duty : Nat) : (s.gclkStart hz duty).env = s.env := rfl
@[simp] theorem State.gclkStart_build (hz duty : Nat) : (s.gclkStart hz duty).build = s.build := rfl
@[simp] theorem State.gclkStart_initDone (hz duty : Nat) : (s.gclkStart hz duty).initDone = s.initDone := by
  simp [State.initDone]
@[simp] theorem State.gclkStart_faulted (hz duty : Nat) : (s.gclkStart hz duty).faulted = s.faulted := by
  simp [State.faulted]
@[simp] theorem State.gclkStart_gclkEn (hz duty : Nat) : (s.gclkStart hz duty).gclkEn = true := by
  simp [State.gclkEn]

-- State.raise
@[simp] theorem State.raise_line (c : Cause) (w0 : Word) : (s.raise c w0).line = s.line := rfl
@[simp] theorem State.raise_dir (c : Cause) (w0 : Word) : (s.raise c w0).dir = s.dir := rfl
@[simp] theorem State.raise_pc (c : Cause) (w0 : Word) : (s.raise c w0).pc = s.pc := rfl
@[simp] theorem State.raise_prog (c : Cause) (w0 : Word) : (s.raise c w0).prog = s.prog := rfl
@[simp] theorem State.raise_cfgNdev (c : Cause) (w0 : Word) : (s.raise c w0).cfgNdev = s.cfgNdev := rfl
@[simp] theorem State.raise_cfgWidth (c : Cause) (w0 : Word) : (s.raise c w0).cfgWidth = s.cfgWidth := rfl
@[simp] theorem State.raise_status (c : Cause) (w0 : Word) : (s.raise c w0).status = s.status ||| 2#3 := rfl
@[simp] theorem State.raise_cause (c : Cause) (w0 : Word) : (s.raise c w0).cause = c.code := rfl
@[simp] theorem State.raise_finfo (c : Cause) (w0 : Word) : (s.raise c w0).finfo = w0 := rfl
@[simp] theorem State.raise_fb (c : Cause) (w0 : Word) : (s.raise c w0).fb = s.fb := rfl
@[simp] theorem State.raise_trace (c : Cause) (w0 : Word) : (s.raise c w0).trace = s.trace ++ [.fault c] := rfl
@[simp] theorem State.raise_env (c : Cause) (w0 : Word) : (s.raise c w0).env = s.env := rfl
@[simp] theorem State.raise_build (c : Cause) (w0 : Word) : (s.raise c w0).build = s.build := rfl
@[simp] theorem State.raise_initDone (c : Cause) (w0 : Word) : (s.raise c w0).initDone = s.initDone := by
  simp [State.initDone]
@[simp] theorem State.raise_faulted (c : Cause) (w0 : Word) : (s.raise c w0).faulted = true := by
  simp [State.faulted]
@[simp] theorem State.raise_gclkEn (c : Cause) (w0 : Word) : (s.raise c w0).gclkEn = s.gclkEn := by
  simp [State.gclkEn]

-- State.advance
@[simp] theorem State.advance_line (len : Nat) : (s.advance len).line = s.line := rfl
@[simp] theorem State.advance_dir (len : Nat) : (s.advance len).dir = s.dir := rfl
@[simp] theorem State.advance_pc (len : Nat) : (s.advance len).pc = s.pc + len := rfl
@[simp] theorem State.advance_prog (len : Nat) : (s.advance len).prog = s.prog := rfl
@[simp] theorem State.advance_cfgNdev (len : Nat) : (s.advance len).cfgNdev = s.cfgNdev := rfl
@[simp] theorem State.advance_cfgWidth (len : Nat) : (s.advance len).cfgWidth = s.cfgWidth := rfl
@[simp] theorem State.advance_status (len : Nat) : (s.advance len).status = s.status := rfl
@[simp] theorem State.advance_cause (len : Nat) : (s.advance len).cause = s.cause := rfl
@[simp] theorem State.advance_finfo (len : Nat) : (s.advance len).finfo = s.finfo := rfl
@[simp] theorem State.advance_fb (len : Nat) : (s.advance len).fb = s.fb := rfl
@[simp] theorem State.advance_trace (len : Nat) : (s.advance len).trace = s.trace := rfl
@[simp] theorem State.advance_env (len : Nat) : (s.advance len).env = s.env := rfl
@[simp] theorem State.advance_build (len : Nat) : (s.advance len).build = s.build := rfl
@[simp] theorem State.advance_initDone (len : Nat) : (s.advance len).initDone = s.initDone := rfl
@[simp] theorem State.advance_faulted (len : Nat) : (s.advance len).faulted = s.faulted := rfl
@[simp] theorem State.advance_gclkEn (len : Nat) : (s.advance len).gclkEn = s.gclkEn := rfl

-- State.setConfig
@[simp] theorem State.setConfig_line (ndev : BitVec 16) (width : BitVec 8) :
    (s.setConfig ndev width).line =
      s.line := rfl
@[simp] theorem State.setConfig_dir (ndev : BitVec 16) (width : BitVec 8) :
    (s.setConfig ndev width).dir =
      s.dir := rfl
@[simp] theorem State.setConfig_pc (ndev : BitVec 16) (width : BitVec 8) : (s.setConfig ndev width).pc = s.pc := rfl
@[simp] theorem State.setConfig_prog (ndev : BitVec 16) (width : BitVec 8) :
    (s.setConfig ndev width).prog =
      s.prog := rfl
@[simp] theorem State.setConfig_cfgNdev (ndev : BitVec 16) (width : BitVec 8) :
    (s.setConfig ndev width).cfgNdev =
      ndev := rfl
@[simp] theorem State.setConfig_cfgWidth (ndev : BitVec 16) (width : BitVec 8) :
    (s.setConfig ndev width).cfgWidth =
      width.setWidth 5 := rfl
@[simp] theorem State.setConfig_status (ndev : BitVec 16) (width : BitVec 8) :
    (s.setConfig ndev width).status =
      s.status := rfl
@[simp] theorem State.setConfig_cause (ndev : BitVec 16) (width : BitVec 8) :
    (s.setConfig ndev width).cause =
      s.cause := rfl
@[simp] theorem State.setConfig_finfo (ndev : BitVec 16) (width : BitVec 8) :
    (s.setConfig ndev width).finfo =
      s.finfo := rfl
@[simp] theorem State.setConfig_fb (ndev : BitVec 16) (width : BitVec 8) : (s.setConfig ndev width).fb = s.fb := rfl
@[simp] theorem State.setConfig_trace (ndev : BitVec 16) (width : BitVec 8) :
    (s.setConfig ndev width).trace =
      s.trace := rfl
@[simp] theorem State.setConfig_env (ndev : BitVec 16) (width : BitVec 8) :
    (s.setConfig ndev width).env =
      s.env := rfl
@[simp] theorem State.setConfig_build (ndev : BitVec 16) (width : BitVec 8) :
    (s.setConfig ndev width).build =
      s.build := rfl
@[simp] theorem State.setConfig_initDone (ndev : BitVec 16) (width : BitVec 8) : (s.setConfig ndev width).initDone = s.initDone := rfl
@[simp] theorem State.setConfig_faulted (ndev : BitVec 16) (width : BitVec 8) : (s.setConfig ndev width).faulted = s.faulted := rfl
@[simp] theorem State.setConfig_gclkEn (ndev : BitVec 16) (width : BitVec 8) : (s.setConfig ndev width).gclkEn = s.gclkEn := rfl

-- State.fillWith
@[simp] theorem State.fillWith_line (r g b w : Nat) : (s.fillWith r g b w).line = s.line := rfl
@[simp] theorem State.fillWith_dir (r g b w : Nat) : (s.fillWith r g b w).dir = s.dir := rfl
@[simp] theorem State.fillWith_pc (r g b w : Nat) : (s.fillWith r g b w).pc = s.pc := rfl
@[simp] theorem State.fillWith_prog (r g b w : Nat) : (s.fillWith r g b w).prog = s.prog := rfl
@[simp] theorem State.fillWith_cfgNdev (r g b w : Nat) : (s.fillWith r g b w).cfgNdev = s.cfgNdev := rfl
@[simp] theorem State.fillWith_cfgWidth (r g b w : Nat) : (s.fillWith r g b w).cfgWidth = s.cfgWidth := rfl
@[simp] theorem State.fillWith_status (r g b w : Nat) : (s.fillWith r g b w).status = s.status := rfl
@[simp] theorem State.fillWith_cause (r g b w : Nat) : (s.fillWith r g b w).cause = s.cause := rfl
@[simp] theorem State.fillWith_finfo (r g b w : Nat) : (s.fillWith r g b w).finfo = s.finfo := rfl
@[simp] theorem State.fillWith_fb (r g b w : Nat) : (s.fillWith r g b w).fb = s.fb.fill s.build r g b w := rfl
@[simp] theorem State.fillWith_trace (r g b w : Nat) : (s.fillWith r g b w).trace = s.trace := rfl
@[simp] theorem State.fillWith_env (r g b w : Nat) : (s.fillWith r g b w).env = s.env := rfl
@[simp] theorem State.fillWith_build (r g b w : Nat) : (s.fillWith r g b w).build = s.build := rfl
@[simp] theorem State.fillWith_initDone (r g b w : Nat) : (s.fillWith r g b w).initDone = s.initDone := rfl
@[simp] theorem State.fillWith_faulted (r g b w : Nat) : (s.fillWith r g b w).faulted = s.faulted := rfl
@[simp] theorem State.fillWith_gclkEn (r g b w : Nat) : (s.fillWith r g b w).gclkEn = s.gclkEn := rfl

end Sys2Proof.Machine
end

