-- ==== Sys2Proof/Laws/Play.lean ====
section
/-! SUPPORT. What playing a command body does (R11, R12, R74): which fields it leaves alone, what it appends to the
command trace, and how the lines end. -/

namespace Sys2Proof.Machine

-- The line file

@[simp] theorem LineFile.get_set_same {α : Type} (f : LineFile α) (l : Line) (v : α) : (f.set l v).get l = v := by
  cases l <;> rfl

theorem LineFile.get_set_other {α : Type} (f : LineFile α) (l l' : Line) (v : α) (h : l' ≠ l) :
    (f.set l v).get l' = f.get l' := by
  cases l <;> cases l' <;> first | rfl | exact absurd rfl h

-- The generator's events

theorem gclkEvents_add (l : Level) (m n : Nat) :
    gclkEvents l (m + n) = gclkEvents l m ++ gclkEvents (gclkLevel l m) n := by
  induction m generalizing l with
  | zero => simp [gclkEvents, gclkLevel]
  | succ m ih => rw [Nat.succ_add]; simp [gclkEvents, gclkLevel, ih]

theorem gclkLevel_add (l : Level) (m n : Nat) : gclkLevel l (m + n) = gclkLevel (gclkLevel l m) n := by
  induction m generalizing l with
  | zero => simp [gclkLevel]
  | succ m ih => rw [Nat.succ_add]; simp [gclkLevel, ih]

@[simp] theorem commandTrace_gclkEvents (l : Level) (n : Nat) : commandTrace (gclkEvents l n) = [] := by
  induction n generalizing l with
  | zero => rfl
  | succ n ih => exact ih (!l)

@[simp] theorem gclkTrace_gclkEvents (l : Level) (n : Nat) : gclkTrace (gclkEvents l n) = gclkEvents l n := by
  induction n generalizing l with
  | zero => rfl
  | succ n ih => simpa [gclkTrace, gclkEvents, Event.isGclk] using ih (!l)

@[simp] theorem commandTrace_append (a b : List Event) : commandTrace (a ++ b) = commandTrace a ++ commandTrace b := by
  simp [commandTrace]

@[simp] theorem gclkTrace_append (a b : List Event) : gclkTrace (a ++ b) = gclkTrace a ++ gclkTrace b := by
  simp [gclkTrace]

@[simp] theorem commandTrace_environment (s : State) : commandTrace s.environment.trace = commandTrace s.trace := by
  simp

@[simp] theorem commandTrace_actionEvents (as : List Action) : commandTrace (actionEvents as) = actionEvents as := by
  induction as with
  | nil => rfl
  | cons a as ih => cases a <;> simpa [commandTrace, actionEvents, Action.event, Event.isGclk] using ih

@[simp] theorem commandTrace_action (a : Action) (es : List Event) :
    commandTrace (a.event :: es) = a.event :: commandTrace es := by
  cases a <;> rfl

@[simp] theorem gclkTrace_action (a : Action) (es : List Event) : gclkTrace (a.event :: es) = gclkTrace es := by
  cases a <;> rfl

@[simp] theorem actionEvents_append (a b : List Action) : actionEvents (a ++ b) = actionEvents a ++ actionEvents b := by
  simp [actionEvents]

-- One primitive

@[simp] theorem Action.perform_pc (a : Action) (s : State) : (a.perform s).pc = s.pc := by cases a <;> rfl
@[simp] theorem Action.perform_prog (a : Action) (s : State) : (a.perform s).prog = s.prog := by cases a <;> rfl
@[simp] theorem Action.perform_cfgNdev (a : Action) (s : State) : (a.perform s).cfgNdev = s.cfgNdev := by
  cases a <;> rfl
@[simp] theorem Action.perform_cfgWidth (a : Action) (s : State) : (a.perform s).cfgWidth = s.cfgWidth := by
  cases a <;> rfl
@[simp] theorem Action.perform_cause (a : Action) (s : State) : (a.perform s).cause = s.cause := by cases a <;> rfl
@[simp] theorem Action.perform_finfo (a : Action) (s : State) : (a.perform s).finfo = s.finfo := by cases a <;> rfl
@[simp] theorem Action.perform_fb (a : Action) (s : State) : (a.perform s).fb = s.fb := by cases a <;> rfl
@[simp] theorem Action.perform_env (a : Action) (s : State) : (a.perform s).env = s.env := by cases a <;> rfl
@[simp] theorem Action.perform_build (a : Action) (s : State) : (a.perform s).build = s.build := by cases a <;> rfl
@[simp] theorem Action.perform_initDone (a : Action) (s : State) : (a.perform s).initDone = s.initDone := by
  cases a <;> simp [Action.perform]
@[simp] theorem Action.perform_faulted (a : Action) (s : State) : (a.perform s).faulted = s.faulted := by
  cases a <;> simp [Action.perform]
@[simp] theorem Action.perform_trace (a : Action) (s : State) : (a.perform s).trace = s.trace ++ [a.event] := by
  cases a <;> rfl

-- A whole body

@[simp] theorem State.play_nil (s : State) : s.play [] = s := rfl

@[simp] theorem State.play_cons (s : State) (a : Action) (as : List Action) :
    s.play (a :: as) = ((a.perform s).environment).play as := rfl

theorem State.play_append (s : State) (as bs : List Action) : s.play (as ++ bs) = (s.play as).play bs := by
  simp [State.play, List.foldl_append]

@[simp] theorem State.play_pc (s : State) (as : List Action) : (s.play as).pc = s.pc := by
  induction as generalizing s with
  | nil => rfl
  | cons a as ih => simp [ih]

@[simp] theorem State.play_prog (s : State) (as : List Action) : (s.play as).prog = s.prog := by
  induction as generalizing s with
  | nil => rfl
  | cons a as ih => simp [ih]

@[simp] theorem State.play_cfgNdev (s : State) (as : List Action) : (s.play as).cfgNdev = s.cfgNdev := by
  induction as generalizing s with
  | nil => rfl
  | cons a as ih => simp [ih]

@[simp] theorem State.play_cfgWidth (s : State) (as : List Action) : (s.play as).cfgWidth = s.cfgWidth := by
  induction as generalizing s with
  | nil => rfl
  | cons a as ih => simp [ih]

@[simp] theorem State.play_cause (s : State) (as : List Action) : (s.play as).cause = s.cause := by
  induction as generalizing s with
  | nil => rfl
  | cons a as ih => simp [ih]

@[simp] theorem State.play_finfo (s : State) (as : List Action) : (s.play as).finfo = s.finfo := by
  induction as generalizing s with
  | nil => rfl
  | cons a as ih => simp [ih]

@[simp] theorem State.play_fb (s : State) (as : List Action) : (s.play as).fb = s.fb := by
  induction as generalizing s with
  | nil => rfl
  | cons a as ih => simp [ih]

@[simp] theorem State.play_build (s : State) (as : List Action) : (s.play as).build = s.build := by
  induction as generalizing s with
  | nil => rfl
  | cons a as ih => simp [ih]

@[simp] theorem State.play_env (s : State) (as : List Action) : (s.play as).env = s.env + as.length := by
  induction as generalizing s with
  | nil => rfl
  | cons a as ih => simp [ih]; omega

@[simp] theorem State.play_initDone (s : State) (as : List Action) : (s.play as).initDone = s.initDone := by
  induction as generalizing s with
  | nil => rfl
  | cons a as ih => simp [ih]

@[simp] theorem State.play_faulted (s : State) (as : List Action) : (s.play as).faulted = s.faulted := by
  induction as generalizing s with
  | nil => rfl
  | cons a as ih => simp [ih]

/-- The events of the body, and nothing else, are appended to the command trace (R33). -/
@[simp] theorem commandTrace_play (s : State) (as : List Action) :
    commandTrace (s.play as).trace = commandTrace s.trace ++ actionEvents as := by
  induction as generalizing s with
  | nil => simp [actionEvents]
  | cons a as ih =>
    rw [State.play_cons, ih]
    simp [actionEvents]

/-- A body without `config` leaves the directions alone (R21). -/
theorem State.play_dir (s : State) (as : List Action) (h : ∀ l d, Action.config l d ∉ as) :
    (s.play as).dir = s.dir := by
  induction as generalizing s with
  | nil => rfl
  | cons a as ih =>
    rw [State.play_cons, ih _ fun l d hm => h l d (List.mem_cons_of_mem _ hm)]
    cases a with
    | config l d => exact absurd List.mem_cons_self (h l d)
    | drive l v => rfl
    | wait ns => rfl
    | gclkStart hz duty => rfl

/-- A body without the clock start leaves STATUS alone (R25). -/
theorem State.play_status (s : State) (as : List Action) (h : ∀ hz duty, Action.gclkStart hz duty ∉ as) :
    (s.play as).status = s.status := by
  induction as generalizing s with
  | nil => rfl
  | cons a as ih =>
    rw [State.play_cons, ih _ fun hz duty hm => h hz duty (List.mem_cons_of_mem _ hm)]
    cases a with
    | config l d => rfl
    | drive l v => rfl
    | wait ns => rfl
    | gclkStart hz duty => exact absurd List.mem_cons_self (h hz duty)

/-- SDI ends at the last level driven on it (R22, R23). -/
@[simp] theorem State.play_sdi (s : State) (as : List Action) :
    (s.play as).line.sdi = lastDriven .sdi s.line.sdi as := by
  induction as generalizing s with
  | nil => rfl
  | cons a as ih =>
    rw [State.play_cons, ih]
    cases a with
    | config l d => rfl
    | wait ns => rfl
    | gclkStart hz duty => rfl
    | drive l v => cases l <;> rfl

/-- DCLK ends at the last level driven on it (R22, R23). -/
@[simp] theorem State.play_dclk (s : State) (as : List Action) :
    (s.play as).line.dclk = lastDriven .dclk s.line.dclk as := by
  induction as generalizing s with
  | nil => rfl
  | cons a as ih =>
    rw [State.play_cons, ih]
    cases a with
    | config l d => rfl
    | wait ns => rfl
    | gclkStart hz duty => rfl
    | drive l v => cases l <;> rfl

/-- LE ends at the last level driven on it (R22, R23). -/
@[simp] theorem State.play_le (s : State) (as : List Action) :
    (s.play as).line.le = lastDriven .le s.line.le as := by
  induction as generalizing s with
  | nil => rfl
  | cons a as ih =>
    rw [State.play_cons, ih]
    cases a with
    | config l d => rfl
    | wait ns => rfl
    | gclkStart hz duty => rfl
    | drive l v => cases l <;> rfl

theorem lastDriven_append (l : Line) (v : Level) (as bs : List Action) :
    lastDriven l v (as ++ bs) = lastDriven l (lastDriven l v as) bs := by
  induction as generalizing v with
  | nil => rfl
  | cons a as ih => cases a <;> exact ih _

/-- A body that drives no GCLK moves GCLK, and the `Gclk` events of the trace, by generator steps only, and by none
while the generator is off and the body does not start it (R23, R221). -/
theorem State.play_gclk (s : State) (as : List Action) (h : ∀ v, Action.drive .gclk v ∉ as) :
    ∃ k, gclkTrace (s.play as).trace = gclkTrace s.trace ++ gclkEvents s.line.gclk k ∧
      (s.play as).line.gclk = gclkLevel s.line.gclk k ∧
      (s.gclkEn = false → (∀ hz duty, Action.gclkStart hz duty ∉ as) → k = 0) := by
  induction as generalizing s with
  | nil => exact ⟨0, by simp [gclkEvents], rfl, fun _ _ => rfl⟩
  | cons a as ih =>
    obtain ⟨k, h1, h2, h3⟩ := ih ((a.perform s).environment) fun v hm => h v (List.mem_cons_of_mem _ hm)
    have hg : (a.perform s).line.gclk = s.line.gclk := by
      cases a with
      | config l d => rfl
      | wait ns => rfl
      | gclkStart hz duty => rfl
      | drive l v =>
        cases l with
        | gclk => exact absurd List.mem_cons_self (h v)
        | sdi => rfl
        | dclk => rfl
        | le => rfl
        | sdo => rfl
    refine ⟨(a.perform s).gclkTicks + k, ?_, ?_, ?_⟩
    · rw [State.play_cons, h1, gclkEvents_add]
      simp [hg]
    · rw [State.play_cons, h2, gclkLevel_add]
      simp [hg]
    · intro hen hno
      have hnot : ∀ hz duty, a ≠ .gclkStart hz duty := fun hz duty e => hno hz duty (e ▸ List.mem_cons_self)
      have hen' : (a.perform s).gclkEn = false := by
        cases a with
        | config l d => exact hen
        | drive l v => exact hen
        | wait ns => exact hen
        | gclkStart hz duty => exact absurd rfl (hnot hz duty)
      have := h3 (by simpa using hen') fun hz duty hm => hno hz duty (List.mem_cons_of_mem _ hm)
      simp [State.gclkTicks, hen', this]

/-- The trace only grows (R33). -/
theorem State.play_trace_grows (s : State) (as : List Action) : s.trace <+: (s.play as).trace := by
  induction as generalizing s with
  | nil => exact List.prefix_refl _
  | cons a as ih => exact (by simp : s.trace <+: (a.perform s).environment.trace).trans (ih _)

end Sys2Proof.Machine
end

