-- ==== Sys2Proof/Laws/Bodies.lean ====
section
/-! SUPPORT. The command bodies: which primitives they hold and the levels they leave (R131, R141, R150, R153). -/

namespace Sys2Proof.Machine

/-- A primitive of a body that only shifts and pulses: a wait, or a drive of SDI, DCLK or LE. -/
def Action.onWire : Action → Bool
  | .wait _ => true
  | .drive .sdi _ => true
  | .drive .dclk _ => true
  | .drive .le _ => true
  | .drive .gclk _ => false
  | .drive .sdo _ => false
  | .config _ _ => false
  | .gclkStart _ _ => false

/-- The bodies of the Bus Driver's commands: runs of shifted bits and of latch and commit pulses (R144, R191). A property
of the three primitives that appending keeps holds of every body. -/
inductive WireBody (b : Build) : List Action → Prop where
  | nil : WireBody b []
  | shift (v : Level) : WireBody b (shiftBit b v)
  | latch : WireBody b (lePulse b b.latchPulses)
  | commit : WireBody b (lePulse b b.commitPulses)
  | append {as bs : List Action} (ha : WireBody b as) (hb : WireBody b bs) : WireBody b (as ++ bs)

variable (b : Build)

theorem WireBody.flatMap {α : Type} (l : List α) (f : α → List Action) (h : ∀ x ∈ l, WireBody b (f x)) :
    WireBody b (l.flatMap f) := by
  induction l with
  | nil => exact .nil
  | cons x l ih =>
    rw [List.flatMap_cons]
    exact .append (h x List.mem_cons_self) (ih fun y hy => h y (List.mem_cons_of_mem _ hy))

theorem wireBody_shiftValue (v w : Nat) : WireBody b (shiftValue b v w) := by
  induction w with
  | zero => exact .nil
  | succ w ih => exact .append (.shift _) ih

theorem wireBody_clearBody (n w : Nat) : WireBody b (clearBody b n w) :=
  .append (.flatMap _ _ _ fun _ _ => .append (.flatMap _ _ _ fun _ _ => wireBody_shiftValue b 0 w) .latch) .commit

theorem wireBody_sendBody (vals : List Nat) (w : Nat) : WireBody b (sendBody b vals w) :=
  .append (.append (.flatMap _ _ _ fun v _ => wireBody_shiftValue b v w) .latch) .commit

theorem onWire_shiftBit (v : Level) : (shiftBit b v).all Action.onWire = true := rfl

theorem onWire_shiftValue (v w : Nat) : (shiftValue b v w).all Action.onWire = true := by
  induction w with
  | zero => rfl
  | succ w ih => simp [shiftValue, ih, onWire_shiftBit]

theorem onWire_dclkPulses (n : Nat) : (dclkPulses b n).all Action.onWire = true := by
  induction n with
  | zero => rfl
  | succ n ih => simp [dclkPulses, pulseDclk, Action.onWire, ih]

theorem onWire_lePulse (n : Nat) : (lePulse b n).all Action.onWire = true := by
  simp [lePulse, onWire_dclkPulses, Action.onWire]

theorem onWire_flatMap {α : Type} (l : List α) (f : α → List Action)
    (h : ∀ x ∈ l, (f x).all Action.onWire = true) : (l.flatMap f).all Action.onWire = true := by
  rw [List.all_flatMap]
  exact List.all_eq_true.2 h

theorem onWire_clearRound (w : Nat) : (clearRound b w).all Action.onWire = true := by
  unfold clearRound
  rw [List.all_append, onWire_flatMap _ _ fun _ _ => onWire_shiftValue b 0 w, onWire_lePulse]
  rfl

theorem onWire_clearBody (n w : Nat) : (clearBody b n w).all Action.onWire = true := by
  unfold clearBody
  rw [List.all_append, onWire_flatMap _ _ fun _ _ => onWire_clearRound b w, onWire_lePulse]
  rfl

theorem onWire_sendBody (vals : List Nat) (w : Nat) : (sendBody b vals w).all Action.onWire = true := by
  unfold sendBody
  rw [List.all_append, List.all_append, onWire_flatMap _ _ fun v _ => onWire_shiftValue b v w, onWire_lePulse,
    onWire_lePulse]
  rfl

theorem not_config_of_onWire {as : List Action} (h : as.all Action.onWire = true) (l : Line) (d : Dir) :
    Action.config l d ∉ as := fun hm => by simpa [Action.onWire] using List.all_eq_true.1 h _ hm

theorem not_gclk_of_onWire {as : List Action} (h : as.all Action.onWire = true) (v : Level) :
    Action.drive .gclk v ∉ as := fun hm => by simpa [Action.onWire] using List.all_eq_true.1 h _ hm

theorem not_start_of_onWire {as : List Action} (h : as.all Action.onWire = true) : ∀ hz duty, Action.gclkStart hz duty ∉ as :=
  fun hz duty hm => by simpa [Action.onWire] using List.all_eq_true.1 h _ hm

/-- What a wire-only body leaves: directions, STATUS, and a GCLK moved by the generator alone. -/
theorem State.play_onWire (s : State) (as : List Action) (h : as.all Action.onWire = true) :
    (s.play as).dir = s.dir ∧ (s.play as).status = s.status ∧
    ∃ k, gclkTrace (s.play as).trace = gclkTrace s.trace ++ gclkEvents s.line.gclk k ∧
      (s.play as).line.gclk = gclkLevel s.line.gclk k ∧ (s.gclkEn = false → k = 0) := by
  refine ⟨State.play_dir s as (not_config_of_onWire h), State.play_status s as (not_start_of_onWire h), ?_⟩
  obtain ⟨k, h1, h2, h3⟩ := State.play_gclk s as (not_gclk_of_onWire h)
  exact ⟨k, h1, h2, fun he => h3 he (not_start_of_onWire h)⟩

-- The levels a body leaves

@[simp] theorem lastDriven_shiftBit_sdi (l v : Level) : lastDriven .sdi l (shiftBit b v) = v := rfl
@[simp] theorem lastDriven_shiftBit_dclk (l v : Level) : lastDriven .dclk l (shiftBit b v) = false := rfl
@[simp] theorem lastDriven_shiftBit_le (l v : Level) : lastDriven .le l (shiftBit b v) = l := rfl

/-- A shift of width 0 drives nothing; any other ends with bit 0 (R134). -/
theorem lastDriven_shiftValue_sdi (l : Level) (v w : Nat) :
    lastDriven .sdi l (shiftValue b v w) = if w = 0 then l else v.testBit 0 := by
  induction w generalizing l with
  | zero => rfl
  | succ w ih =>
    rw [shiftValue, lastDriven_append, lastDriven_shiftBit_sdi, ih]
    split
    · rename_i h; subst h; rfl
    · rfl

theorem lastDriven_shiftValue_dclk (v w : Nat) : lastDriven .dclk false (shiftValue b v w) = false := by
  induction w with
  | zero => rfl
  | succ w ih => rw [shiftValue, lastDriven_append, lastDriven_shiftBit_dclk, ih]

theorem lastDriven_shiftValue_le (l : Level) (v w : Nat) : lastDriven .le l (shiftValue b v w) = l := by
  induction w with
  | zero => rfl
  | succ w ih => rw [shiftValue, lastDriven_append, lastDriven_shiftBit_le, ih]

theorem lastDriven_dclkPulses_sdi (l : Level) (n : Nat) : lastDriven .sdi l (dclkPulses b n) = l := by
  induction n with
  | zero => rfl
  | succ n ih => rw [dclkPulses, lastDriven_append]; exact ih

theorem lastDriven_dclkPulses_dclk (n : Nat) : lastDriven .dclk false (dclkPulses b n) = false := by
  induction n with
  | zero => rfl
  | succ n ih => rw [dclkPulses, lastDriven_append]; exact ih

@[simp] theorem lastDriven_lePulse_sdi (l : Level) (n : Nat) : lastDriven .sdi l (lePulse b n) = l := by
  rw [lePulse, lastDriven_append, lastDriven_append]
  exact lastDriven_dclkPulses_sdi b l n

@[simp] theorem lastDriven_lePulse_dclk (l : Level) (n : Nat) : lastDriven .dclk l (lePulse b n) = false := by
  rw [lePulse, lastDriven_append, lastDriven_append]
  exact lastDriven_dclkPulses_dclk b n

@[simp] theorem lastDriven_lePulse_le (l : Level) (n : Nat) : lastDriven .le l (lePulse b n) = false := by
  rw [lePulse, lastDriven_append, lastDriven_append]
  rfl

theorem lastDriven_flatMap_keeps {α : Type} (ln : Line) (l : Level) (xs : List α) (f : α → List Action)
    (h : ∀ x ∈ xs, lastDriven ln l (f x) = l) : lastDriven ln l (xs.flatMap f) = l := by
  induction xs with
  | nil => rfl
  | cons x xs ih =>
    rw [List.flatMap_cons, lastDriven_append, h x List.mem_cons_self,
      ih fun y hy => h y (List.mem_cons_of_mem _ hy)]

@[simp] theorem lastDriven_clearBody_dclk (l : Level) (n w : Nat) :
    lastDriven .dclk l (clearBody b n w) = false := by rw [clearBody, lastDriven_append]; simp

@[simp] theorem lastDriven_clearBody_le (l : Level) (n w : Nat) : lastDriven .le l (clearBody b n w) = false := by
  rw [clearBody, lastDriven_append]; simp

@[simp] theorem lastDriven_sendBody_dclk (l : Level) (vals : List Nat) (w : Nat) :
    lastDriven .dclk l (sendBody b vals w) = false := by rw [sendBody, lastDriven_append]; simp

@[simp] theorem lastDriven_sendBody_le (l : Level) (vals : List Nat) (w : Nat) :
    lastDriven .le l (sendBody b vals w) = false := by rw [sendBody, lastDriven_append]; simp

end Sys2Proof.Machine
end

