-- ==== Sys2Proof/Laws/Build.lean ====
section
/-! SUPPORT. What well-formed build parameters are (R6 to R8), and what a schedule of the GCLK generator is (R74 c). -/

namespace Sys2Proof

-- Build parameters

/-- The values R6 and R8 give the parameters of well-formed builds. -/
theorem Build.wellFormed_values {b : Build} (h : b.wellFormed = true) :
    b.nch = 16 ∧ b.slots = 4 ∧ b.cellBits = 16 ∧ b.latchPulses = 1 ∧ b.commitPulses = 3 := by
  simp only [Build.wellFormed, Build.shapeOk, Bool.and_eq_true, beq_iff_eq] at h
  obtain ⟨⟨-, ⟨⟨⟨h1, h2⟩, h3⟩, h4⟩, h5⟩, -⟩ := h
  exact ⟨h1, h2, h3, h4, h5⟩

@[simp] theorem Build.length_channels (b : Build) : b.channels.length = b.nch := by simp [Build.channels]

theorem Build.getElem_channels (b : Build) (j : Nat) (h : j < b.nch) : b.channels[j]? = some (b.chOrderAt j) := by
  simp [Build.channels, h]

/-- CH_ORDER(0), ..., CH_ORDER(NCH-1) are the entries of the list (R8). -/
theorem Build.channels_eq {b : Build} (h : b.wellFormed = true) : b.channels = b.chOrder := by
  simp only [Build.wellFormed, Build.chOrderOk, Bool.and_eq_true, beq_iff_eq] at h
  obtain ⟨-, ⟨hl, -⟩, -⟩ := h
  refine List.ext_getElem (by simp [hl]) fun j h1 h2 => ?_
  simp [Build.channels, Build.chOrderAt, List.getD_eq_getElem?_getD, h2]

/-- CH_ORDER is a bijection on 0..NCH-1 (R8). -/
theorem Build.channels_bijective {b : Build} (h : b.wellFormed = true) :
    b.channels.Nodup ∧ ∀ c, c ∈ b.channels ↔ c < b.nch := by
  have he := Build.channels_eq h
  have hlen := b.length_channels
  simp only [Build.wellFormed, Build.chOrderOk, Bool.and_eq_true, decide_eq_true_eq, List.all_eq_true] at h
  obtain ⟨-, ⟨-, hlt⟩, hnd⟩ := h
  rw [he] at hlen ⊢
  have hsub : b.chOrder ⊆ List.range b.nch := fun c hc => List.mem_range.2 (hlt c hc)
  have hperm : b.chOrder.Perm (List.range b.nch) :=
    (hnd.subperm hsub).perm_of_length_le (by simp [hlen])
  exact ⟨hnd, fun c => (hperm.mem_iff).trans List.mem_range⟩

theorem Build.chOrderAt_lt {b : Build} (h : b.wellFormed = true) {j : Nat} (hj : j < b.nch) : b.chOrderAt j < b.nch :=
  (Build.channels_bijective h).2 _ |>.1 (List.mem_of_getElem? (b.getElem_channels j hj))

namespace Machine

-- Schedules of the GCLK generator

theorem le_turnOf (gap : Nat → Nat) (i : Nat) : i ≤ turnOf gap i := by
  induction i with
  | zero => exact Nat.zero_le _
  | succ i ih => simp only [turnOf]; omega

/-- Every schedule is fair: after any point there is one with a step. -/
theorem scheduleOf_fair (gap extra : Nat → Nat) (n : Nat) : ∃ k, n ≤ k ∧ 0 < scheduleOf gap extra k := by
  refine ⟨turnOf gap n, le_turnOf gap n, ?_⟩
  have : (List.range (turnOf gap n + 1)).any (fun i => turnOf gap i == turnOf gap n) = true :=
    List.any_eq_true.2 ⟨n, List.mem_range.2 (Nat.lt_succ_of_le (le_turnOf gap n)), by simp⟩
  simp [scheduleOf, this]

/-- Every fair schedule is one of them, so that the model leaves none out. -/
theorem scheduleOf_complete (f : Nat → Nat) (hf : ∀ n, ∃ k, n ≤ k ∧ 0 < f k) : ∃ gap extra, scheduleOf gap extra = f := by
  have hinf : (Set.ofPred fun k => 0 < f k).Infinite :=
    Set.infinite_of_not_bddAbove fun ⟨m, hm⟩ => by
      obtain ⟨k, hk, hp⟩ := hf (m + 1)
      exact absurd (hm hp) (by omega)
  let g := Nat.nth fun k => 0 < f k
  have hmono : StrictMono g := Nat.nth_strictMono hinf
  let gap : Nat → Nat := fun i => match i with
    | 0 => g 0
    | i + 1 => g (i + 1) - (g i + 1)
  have hturn : ∀ i, turnOf gap i = g i := by
    intro i
    induction i with
    | zero => rfl
    | succ i ih =>
      have : g i < g (i + 1) := hmono (Nat.lt_succ_self i)
      simp only [turnOf, ih, gap]
      omega
  refine ⟨gap, fun k => f k - 1, funext fun k => ?_⟩
  have hany : (List.range (k + 1)).any (fun i => turnOf gap i == k) = decide (0 < f k) := by
    rw [Bool.eq_iff_iff, List.any_eq_true, decide_eq_true_eq]
    constructor
    · rintro ⟨i, -, hi⟩
      rw [hturn, beq_iff_eq] at hi
      exact hi ▸ Nat.nth_mem_of_infinite hinf i
    · intro hk
      obtain ⟨i, hi⟩ : k ∈ Set.range g := by
        rw [Nat.range_nth_of_infinite hinf]; exact hk
      exact ⟨i, List.mem_range.2 (Nat.lt_succ_of_le (hi ▸ hmono.id_le i)), by rw [hturn, hi, beq_self_eq_true]⟩
  unfold scheduleOf
  rw [hany]
  by_cases hk : 0 < f k
  · simp only [decide_eq_true hk, if_true]; omega
  · simp only [decide_eq_false hk, Bool.false_eq_true, if_false]; omega

/-- The generator's own schedule is fair. -/
theorem gclkSteps_fair (n : Nat) : ∃ k, n ≤ k ∧ 0 < gclkSteps k := scheduleOf_fair _ _ n

end Machine

end Sys2Proof
end

