-- ==== Sys2Proof/Laws/Decode.lean ====
section
/-! SUPPORT. Reading the fields back out of a word built from them (R90, R93 to R97). -/

namespace Sys2Proof

theorem getLsbD_append_hi {n m : Nat} (a : BitVec n) (b : BitVec m) (i : Nat) (h : m ≤ i) :
    (a ++ b).getLsbD i = a.getLsbD (i - m) := by
  rw [BitVec.getLsbD_append]; simp [Nat.not_lt.2 h]

theorem getLsbD_append_lo {n m : Nat} (a : BitVec n) (b : BitVec m) (i : Nat) (h : i < m) :
    (a ++ b).getLsbD i = b.getLsbD i := by
  rw [BitVec.getLsbD_append]; simp [h]

theorem extract_append_hi {n m : Nat} (a : BitVec n) (b : BitVec m) : (a ++ b).extractLsb' m n = a := by
  apply BitVec.eq_of_getLsbD_eq
  intro i hi
  rw [BitVec.getLsbD_extractLsb', getLsbD_append_hi _ _ _ (by omega)]
  simp [hi]

theorem extract_append_lo {n m : Nat} (a : BitVec n) (b : BitVec m) : (a ++ b).extractLsb' 0 m = b := by
  apply BitVec.eq_of_getLsbD_eq
  intro i hi
  rw [BitVec.getLsbD_extractLsb', getLsbD_append_lo _ _ _ (by omega)]
  simp [hi]

/-- A word is its high part and its low part. -/
theorem append_extract {n m : Nat} (w : BitVec (n + m)) : w.extractLsb' m n ++ w.extractLsb' 0 m = w := by
  apply BitVec.eq_of_getLsbD_eq
  intro i hi
  rcases Nat.lt_or_ge i m with h | h
  · rw [getLsbD_append_lo _ _ _ h, BitVec.getLsbD_extractLsb']; simp [h]
  · rw [getLsbD_append_hi _ _ _ h, BitVec.getLsbD_extractLsb']
    simp [show m + (i - m) = i by omega]
    omega

theorem append_assoc {a b c : Nat} (x : BitVec a) (y : BitVec b) (z : BitVec c) :
    x ++ y ++ z = (x ++ (y ++ z)).cast (by omega) := BitVec.append_assoc ..

-- Two fields: op and 24 bits, or the halves of a colour word

theorem opcodeOf_pair (op : BitVec 8) (x : BitVec 24) : opcodeOf (op ++ x) = op := extract_append_hi op x
theorem fieldLow24_pair (op : BitVec 8) (x : BitVec 24) : fieldLow24 (op ++ x) = x := extract_append_lo op x
theorem hiHalf_pair (a b : BitVec 16) : hiHalf (a ++ b) = a := extract_append_hi a b
theorem loHalf_pair (a b : BitVec 16) : loHalf (a ++ b) = b := extract_append_lo a b

-- Formats I and V

theorem opcodeOf_wide (op b : BitVec 8) (x : BitVec 16) : opcodeOf (op ++ b ++ x) = op :=
  (congrArg opcodeOf (append_assoc op b x)).trans (extract_append_hi op (b ++ x))

theorem fieldWidth_wide (op b : BitVec 8) (x : BitVec 16) : fieldWidth (op ++ b ++ x) = b := by
  have h : (op ++ b ++ x).extractLsb' 16 16 = op ++ b := extract_append_hi (op ++ b) x
  unfold fieldWidth
  apply BitVec.eq_of_getLsbD_eq
  intro i hi
  have := congrArg (fun v => BitVec.getLsbD v i) h
  simp only [BitVec.getLsbD_extractLsb'] at *
  rw [getLsbD_append_lo _ _ _ hi] at this
  simpa [hi, show i < 16 by omega] using this

theorem loHalf_wide (op b : BitVec 8) (x : BitVec 16) : loHalf (op ++ b ++ x) = x := extract_append_lo (op ++ b) x

-- Format B

theorem opcodeOf_bit (op : BitVec 8) (z : BitVec 23) (b : BitVec 1) : opcodeOf (op ++ z ++ b) = op :=
  (congrArg opcodeOf (append_assoc op z b)).trans (extract_append_hi op (z ++ b))

-- Format P

theorem opcodeOf_pixel (op : BitVec 8) (row col : BitVec 12) : opcodeOf (op ++ row ++ col) = op :=
  (congrArg opcodeOf (append_assoc op row col)).trans (extract_append_hi op (row ++ col))

theorem fieldCol_pixel (op : BitVec 8) (row col : BitVec 12) : fieldCol (op ++ row ++ col) = col :=
  extract_append_lo (op ++ row) col

-- Every outcome of the decoder

/-- Everything R98 can answer on a first word and the words after it. -/
inductive DecodeCase (w0 : Word) (ws : List Word) : Decoded → Prop where
  | init (hop : opcodeOf w0 = 0x01#8) : DecodeCase w0 ws (.command (.init (loHalf w0) (fieldWidth w0)) ws)
  | shiftBit (hop : opcodeOf w0 = 0x02#8) (hz : fieldLow24But0 w0 = 0#23) :
      DecodeCase w0 ws (.command (.shiftBit (w0.extractLsb' 0 1)) ws)
  | shiftValue (hop : opcodeOf w0 = 0x03#8) :
      DecodeCase w0 ws (.command (.shiftValue (loHalf w0) (fieldWidth w0)) ws)
  | latch (hop : opcodeOf w0 = 0x04#8) (hz : fieldLow24 w0 = 0#24) : DecodeCase w0 ws (.command .latch ws)
  | commit (hop : opcodeOf w0 = 0x05#8) (hz : fieldLow24 w0 = 0#24) : DecodeCase w0 ws (.command .commit ws)
  | clear (hop : opcodeOf w0 = 0x06#8) (hz : fieldLow24 w0 = 0#24) : DecodeCase w0 ws (.command .clear ws)
  | sendFrame (hop : opcodeOf w0 = 0x07#8) (hz : fieldLow24 w0 = 0#24) : DecodeCase w0 ws (.command .sendFrame ws)
  | fbClear (hop : opcodeOf w0 = 0x12#8) (hz : fieldLow24 w0 = 0#24) : DecodeCase w0 ws (.command .fbClear ws)
  | setUniform (hop : opcodeOf w0 = 0x08#8) (hz : fieldWidth w0 = 0#8) :
      DecodeCase w0 ws (.command (.setUniform (loHalf w0)) ws)
  | fbSetPixel (w1 w2 : Word) (rest : List Word) (hop : opcodeOf w0 = 0x10#8) (hws : ws = w1 :: w2 :: rest) :
      DecodeCase w0 ws (.command
        (.fbSetPixel (fieldRow w0) (fieldCol w0) (hiHalf w1) (loHalf w1) (hiHalf w2) (loHalf w2)) rest)
  | fbFill (w1 w2 : Word) (rest : List Word) (hop : opcodeOf w0 = 0x11#8) (hz : fieldLow24 w0 = 0#24)
      (hws : ws = w1 :: w2 :: rest) :
      DecodeCase w0 ws (.command (.fbFill (hiHalf w1) (loHalf w1) (hiHalf w2) (loHalf w2)) rest)
  | cutShort (hop : opcodeOf w0 = 0x10#8 ∨ opcodeOf w0 = 0x11#8) (hlen : ws.length < 2) : DecodeCase w0 ws .cutShort
  | shiftBitIllegal (hop : opcodeOf w0 = 0x02#8) (hnz : fieldLow24But0 w0 ≠ 0#23) : DecodeCase w0 ws (.illegal w0)
  | setUniformIllegal (hop : opcodeOf w0 = 0x08#8) (hnz : fieldWidth w0 ≠ 0#8) : DecodeCase w0 ws (.illegal w0)
  | noOperandIllegal (hop : opcodeOf w0 ∈ [0x04#8, 0x05#8, 0x06#8, 0x07#8, 0x11#8, 0x12#8])
      (hnz : fieldLow24 w0 ≠ 0#24) : DecodeCase w0 ws (.illegal w0)
  | reserved (hop : opcodeOf w0 ∉ [0x01#8, 0x02#8, 0x03#8, 0x04#8, 0x05#8, 0x06#8, 0x07#8, 0x08#8, 0x10#8, 0x11#8,
      0x12#8]) :
      DecodeCase w0 ws (.illegal w0)

/-- A format-Z word (R93). -/
theorem decodeZ_case {w0 : Word} {ws : List Word} {i : Instr}
    (hop : opcodeOf w0 ∈ [0x04#8, 0x05#8, 0x06#8, 0x07#8, 0x11#8, 0x12#8])
    (h : fieldLow24 w0 = 0#24 → DecodeCase w0 ws (.command i ws)) : DecodeCase w0 ws (decodeZ w0 i ws) := by
  unfold decodeZ
  by_cases hz : fieldLow24 w0 = 0#24
  · rw [if_pos hz]; exact h hz
  · rw [if_neg hz]; exact .noOperandIllegal hop hz

theorem decodeWord_cases (w0 : Word) (ws : List Word) : DecodeCase w0 ws (decodeWord w0 ws) := by
  unfold decodeWord
  by_cases h1 : opcodeOf w0 = 0x01#8
  · rw [if_pos h1]; exact .init h1
  rw [if_neg h1]
  by_cases h2 : opcodeOf w0 = 0x02#8
  · rw [if_pos h2]
    by_cases hz : fieldLow24But0 w0 = 0#23
    · rw [if_pos hz]; exact .shiftBit h2 hz
    · rw [if_neg hz]; exact .shiftBitIllegal h2 hz
  rw [if_neg h2]
  by_cases h3 : opcodeOf w0 = 0x03#8
  · rw [if_pos h3]; exact .shiftValue h3
  rw [if_neg h3]
  by_cases h4 : opcodeOf w0 = 0x04#8
  · rw [if_pos h4]; exact decodeZ_case (by simp [h4]) (.latch h4)
  rw [if_neg h4]
  by_cases h5 : opcodeOf w0 = 0x05#8
  · rw [if_pos h5]; exact decodeZ_case (by simp [h5]) (.commit h5)
  rw [if_neg h5]
  by_cases h6 : opcodeOf w0 = 0x06#8
  · rw [if_pos h6]; exact decodeZ_case (by simp [h6]) (.clear h6)
  rw [if_neg h6]
  by_cases h7 : opcodeOf w0 = 0x07#8
  · rw [if_pos h7]; exact decodeZ_case (by simp [h7]) (.sendFrame h7)
  rw [if_neg h7]
  by_cases h8 : opcodeOf w0 = 0x08#8
  · rw [if_pos h8]
    by_cases hz : fieldWidth w0 = 0#8
    · rw [if_pos hz]; exact .setUniform h8 hz
    · rw [if_neg hz]; exact .setUniformIllegal h8 hz
  rw [if_neg h8]
  by_cases h10 : opcodeOf w0 = 0x10#8
  · rw [if_pos h10]
    match ws with
    | [] => exact .cutShort (.inl h10) (by simp)
    | [_] => exact .cutShort (.inl h10) (by simp)
    | w1 :: w2 :: rest => exact .fbSetPixel w1 w2 rest h10 rfl
  rw [if_neg h10]
  by_cases h11 : opcodeOf w0 = 0x11#8
  · rw [if_pos h11]
    match ws with
    | [] => exact .cutShort (.inr h11) (by simp)
    | [_] => exact .cutShort (.inr h11) (by simp)
    | w1 :: w2 :: rest =>
      by_cases hz : fieldLow24 w0 = 0#24
      · simp only [hz, if_true]; exact .fbFill w1 w2 rest h11 hz rfl
      · simp only [hz, if_false]; exact .noOperandIllegal (by simp [h11]) hz
  rw [if_neg h11]
  by_cases h12 : opcodeOf w0 = 0x12#8
  · rw [if_pos h12]; exact decodeZ_case (by simp [h12]) (.fbClear h12)
  rw [if_neg h12]
  refine .reserved ?_
  simp only [List.mem_cons, not_or]
  exact ⟨h1, h2, h3, h4, h5, h6, h7, h8, h10, h11, h12, List.not_mem_nil⟩

end Sys2Proof
end

