-- ==== Sys2Proof/Laws/Memory.lean ====
section
/-! SUPPORT. Reads after writes, and every memory operation keeps the canonical form (R32, R60, R71). -/

namespace Sys2Proof.Machine

@[simp] theorem Memory.read_write_same (m : Memory) (a : Nat) (v : Nat) :
    Memory.read (Memory.write m a v) a = some v := by
  induction m with
  | nil => simp [Memory.write, Memory.read]
  | cons p m ih =>
    obtain ⟨b, x⟩ := p
    unfold Memory.write
    split
    · simp [Memory.read]
    · split
      · simp [Memory.read]
      · simp [Memory.read, *]

theorem Memory.read_write_other (m : Memory) (a a' : Nat) (v : Nat) (h : a' ≠ a) :
    Memory.read (Memory.write m a v) a' = Memory.read m a' := by
  induction m with
  | nil => simp [Memory.write, Memory.read, h]
  | cons p m ih =>
    obtain ⟨b, x⟩ := p
    unfold Memory.write
    split
    · simp [Memory.read, h]
    · split
      · rename_i hab
        simp [Memory.read, h, hab.symm ▸ h]
      · simp [Memory.read, ih]

/-- Every entry after a write is the entry written or was there before. -/
theorem Memory.mem_write (m : Memory) (a : Nat) (v : Nat) (p : Nat × Nat)
    (h : p ∈ Memory.write m a v) : p = (a, v) ∨ p ∈ m := by
  induction m with
  | nil => simpa [Memory.write] using h
  | cons q m ih =>
    obtain ⟨b, x⟩ := q
    unfold Memory.write at h
    split at h
    · simpa using h
    · split at h
      · rcases List.mem_cons.1 h with h | h
        · exact .inl h
        · exact .inr (List.mem_cons_of_mem _ h)
      · rcases List.mem_cons.1 h with h | h
        · exact .inr (h ▸ List.mem_cons_self)
        · exact (ih h).imp_right (List.mem_cons_of_mem _)

theorem Memory.wf_write (m : Memory) (a : Nat) (v : Nat) (h : Memory.wf m) : Memory.wf (Memory.write m a v) := by
  induction m with
  | nil => exact List.pairwise_singleton _ _
  | cons q m ih =>
    obtain ⟨b, x⟩ := q
    obtain ⟨hb, hm⟩ := List.pairwise_cons.1 h
    unfold Memory.write
    split
    · rename_i hab
      refine List.pairwise_cons.2 ⟨fun p hp => ?_, h⟩
      rcases List.mem_cons.1 hp with hp | hp
      · exact hp ▸ hab
      · exact hab.trans (hb p hp)
    · split
      · rename_i hab
        exact List.pairwise_cons.2 ⟨fun p hp => hab ▸ hb p hp, hm⟩
      · refine List.pairwise_cons.2 ⟨fun p hp => ?_, ih hm⟩
        rcases Memory.mem_write m a v p hp with hp | hp
        · subst hp; dsimp only; omega
        · exact hb p hp

theorem Memory.wf_writePixel (m : Memory) (base : Nat) (r g b w : Nat) (h : Memory.wf m) :
    Memory.wf (Memory.writePixel m base r g b w) :=
  Memory.wf_write _ _ _ (Memory.wf_write _ _ _ (Memory.wf_write _ _ _ (Memory.wf_write _ _ _ h)))

/-- Every entry after a pixel is written is one of its four cells with one of the four values, or was there before. -/
theorem Memory.mem_writePixel (m : Memory) (base : Nat) (r g b w : Nat) (p : Nat × Nat)
    (h : p ∈ Memory.writePixel m base r g b w) :
    (base ≤ p.1 ∧ p.1 < base + 4 ∧ p.2 ∈ [r, g, b, w]) ∨ p ∈ m := by
  rcases Memory.mem_write _ _ _ _ h with h | h
  · subst h; exact .inl ⟨by simp, by simp, by simp⟩
  rcases Memory.mem_write _ _ _ _ h with h | h
  · subst h; exact .inl ⟨by simp, by simp, by simp⟩
  rcases Memory.mem_write _ _ _ _ h with h | h
  · subst h; exact .inl ⟨by simp, by simp, by simp⟩
  rcases Memory.mem_write _ _ _ _ h with h | h
  · subst h; exact .inl ⟨by simp, by simp, by simp⟩
  exact .inr h

/-- A pixel's write leaves every other cell alone. -/
theorem Memory.read_writePixel_other (m : Memory) (base a : Nat) (r g b w : Nat)
    (h : a < base ∨ base + 4 ≤ a) : Memory.read (Memory.writePixel m base r g b w) a = Memory.read m a := by
  unfold Memory.writePixel
  rw [Memory.read_write_other _ _ _ _ (by omega), Memory.read_write_other _ _ _ _ (by omega),
    Memory.read_write_other _ _ _ _ (by omega), Memory.read_write_other _ _ _ _ (by omega)]

/-- The four cells of a pixel just written. -/
theorem Memory.read_writePixel (m : Memory) (base : Nat) (r g b w : Nat) :
    Memory.read (Memory.writePixel m base r g b w) (base + 0) = some r ∧
    Memory.read (Memory.writePixel m base r g b w) (base + 1) = some g ∧
    Memory.read (Memory.writePixel m base r g b w) (base + 2) = some b ∧
    Memory.read (Memory.writePixel m base r g b w) (base + 3) = some w := by
  unfold Memory.writePixel
  refine ⟨?_, ?_, ?_, Memory.read_write_same _ _ _⟩
  · rw [Memory.read_write_other _ _ _ _ (by omega), Memory.read_write_other _ _ _ _ (by omega),
      Memory.read_write_other _ _ _ _ (by omega), Memory.read_write_same]
  · rw [Memory.read_write_other _ _ _ _ (by omega), Memory.read_write_other _ _ _ _ (by omega),
      Memory.read_write_same]
  · rw [Memory.read_write_other _ _ _ _ (by omega), Memory.read_write_same]

/-- A property of memories that every pixel write of the grid keeps is kept by FB_FILL's loops (R167). -/
theorem Memory.fill_induction (P : Memory → Prop) (m : Memory) (build : Build) (r g b w : Nat) (h0 : P m)
    (hstep : ∀ m row col, row < build.rows → col < build.cols → P m →
      P (Memory.writePixel m (build.pixelBase row col) r g b w)) : P (Memory.fill m build r g b w) := by
  unfold Memory.fill
  have cols : ∀ (cs : List Nat) (m : Memory) (row : Nat), (∀ c ∈ cs, c < build.cols) → row < build.rows → P m →
      P (cs.foldl (fun m col => Memory.writePixel m (build.pixelBase row col) r g b w) m) := by
    intro cs
    induction cs with
    | nil => exact fun m row _ _ h => h
    | cons c cs ih =>
      exact fun m row hc hr h => ih _ row (fun c' h' => hc c' (List.mem_cons_of_mem _ h')) hr
        (hstep m row c hr (hc c List.mem_cons_self) h)
  have rows : ∀ (rs : List Nat) (m : Memory), (∀ r' ∈ rs, r' < build.rows) → P m →
      P (rs.foldl (fun m row => (List.range build.cols).foldl
        (fun m col => Memory.writePixel m (build.pixelBase row col) r g b w) m) m) := by
    intro rs
    induction rs with
    | nil => exact fun m _ h => h
    | cons x rs ih =>
      exact fun m hr h => ih _ (fun r' h' => hr r' (List.mem_cons_of_mem _ h'))
        (cols _ m x (fun c hc => List.mem_range.1 hc) (hr x List.mem_cons_self) h)
  exact rows _ m (fun x hx => List.mem_range.1 hx) h0

theorem Memory.wf_fill (m : Memory) (build : Build) (r g b w : Nat) (h : Memory.wf m) :
    Memory.wf (Memory.fill m build r g b w) :=
  Memory.fill_induction Memory.wf m build r g b w h fun m _ _ _ _ hm => Memory.wf_writePixel m _ r g b w hm

theorem State.reset_fb_wf : State.reset.fb.wf := List.Pairwise.nil

/-- The four cells of a pixel of the grid lie in the frame buffer (R61, R68). -/
theorem Build.pixelBase_lt (b : Build) (row col : Nat) (hs : b.slots = 4) (hr : row < b.rows) (hc : col < b.cols) :
    b.pixelBase row col + 4 ≤ b.cells := by
  unfold Build.pixelBase Build.cells
  have h1 : row * b.cols + col < b.rows * b.cols := by
    calc row * b.cols + col < row * b.cols + b.cols := by omega
      _ = (row + 1) * b.cols := by ring
      _ ≤ b.rows * b.cols := Nat.mul_le_mul_right _ hr
  rw [hs]
  omega

end Sys2Proof.Machine
end

