-- ==== Sys2Proof/Laws/Exec.lean ====
section
/-! SUPPORT. What a command and a step can answer, said once: each outcome is one of the listed cases. -/

namespace Sys2Proof.Machine

/-- `accept` always answers a next state: nothing happens when halted, fault entry on a violation, else the body. -/
theorem accept_cases (s : State) (w0 : Word) (v : Option Cause) (body : State → State) :
    (s.faulted = true ∧ accept s w0 v body = .next s) ∨
    (∃ c, s.faulted = false ∧ v = some c ∧ accept s w0 v body = .next (s.raise c w0)) ∨
    (s.faulted = false ∧ v = none ∧ accept s w0 v body = .next (body s)) := by
  unfold accept
  cases hf : s.faulted with
  | true => exact .inl ⟨rfl, rfl⟩
  | false =>
    cases v with
    | none => exact .inr (.inr ⟨rfl, rfl, rfl⟩)
    | some c => exact .inr (.inl ⟨c, rfl, rfl, rfl⟩)

theorem accept_pass {s : State} {w0 : Word} {v : Option Cause} {body : State → State} (hf : s.faulted = false)
    (hv : v = none) : accept s w0 v body = .next (body s) := by simp [accept, hf, hv]

theorem accept_violation {s : State} {w0 : Word} {v : Option Cause} {body : State → State} {c : Cause}
    (hf : s.faulted = false) (hv : v = some c) : accept s w0 v body = .next (s.raise c w0) := by
  simp [accept, hf, hv]

theorem accept_halted {s : State} {w0 : Word} {v : Option Cause} {body : State → State} (hf : s.faulted = true) :
    accept s w0 v body = .next s := by simp [accept, hf]

theorem needsInit_done {s : State} (h : s.initDone = true) : s.needsInit = none := by simp [State.needsInit, h]

theorem needsInit_fresh {s : State} (h : s.initDone = false) : s.needsInit = some .uninit := by
  simp [State.needsInit, h]

theorem initDone_of_needsInit {s : State} (h : s.needsInit = none) : s.initDone = true := by
  cases hd : s.initDone with
  | true => rfl
  | false => rw [needsInit_fresh hd] at h; cases h

-- The meaning of each command as one call of `accept`

theorem exec_init (ndev : BitVec 16) (width : BitVec 8) (s : State) :
    exec (.init ndev width) s = accept s (Instr.init ndev width).firstWord (s.initCheck ndev.toNat width.toNat)
      fun s => (((s.setConfig ndev width).play
        (initActions s.build ndev.toNat (width.setWidth 5).toNat)).setInitDone).advance 1 := rfl

theorem exec_shiftBit (bit : BitVec 1) (s : State) :
    exec (.shiftBit bit) s = accept s (Instr.shiftBit bit).firstWord s.needsInit
      fun s => (s.play (shiftBit s.build (bit == 1#1))).advance 1 := rfl

theorem exec_shiftValue (value : BitVec 16) (width : BitVec 8) (s : State) :
    exec (.shiftValue value width) s = accept s (Instr.shiftValue value width).firstWord s.needsInit
      fun s => (s.play (shiftValue s.build value.toNat width.toNat)).advance 1 := rfl

theorem exec_latch (s : State) :
    exec .latch s = accept s Instr.latch.firstWord s.needsInit
      fun s => (s.play (lePulse s.build s.build.latchPulses)).advance 1 := rfl

theorem exec_commit (s : State) :
    exec .commit s = accept s Instr.commit.firstWord s.needsInit
      fun s => (s.play (lePulse s.build s.build.commitPulses)).advance 1 := rfl

theorem exec_clear (s : State) :
    exec .clear s = accept s Instr.clear.firstWord s.needsInit
      fun s => (s.play (clearBody s.build s.cfgNdev.toNat s.cfgWidth.toNat)).advance 1 := rfl

theorem exec_setUniform (value : BitVec 16) (s : State) :
    exec (.setUniform value) s = accept s (Instr.setUniform value).firstWord
      (s.needsInit.or (s.uniformCheck value.toNat)) fun s =>
        (s.play (sendBody s.build ((s.build.sendOrder s.cfgNdev.toNat).map fun _ => value.toNat)
          s.cfgWidth.toNat)).advance 1 := rfl

theorem exec_fbSetPixel (row col : BitVec 12) (r g b w : BitVec 16) (s : State) :
    exec (.fbSetPixel row col r g b w) s = accept s (Instr.fbSetPixel row col r g b w).firstWord
      (s.indexCheck row.toNat col.toNat) fun s =>
        ({ s with fb := s.fb.writePixel (s.build.pixelBase row.toNat col.toNat) r.toNat g.toNat b.toNat w.toNat }).advance 3 := rfl

theorem exec_fbFill (r g b w : BitVec 16) (s : State) :
    exec (.fbFill r g b w) s = accept s (Instr.fbFill r g b w).firstWord none
      fun s => (s.fillWith r.toNat g.toNat b.toNat w.toNat).advance 3 := rfl

theorem exec_fbClear (s : State) :
    exec .fbClear s = accept s Instr.fbClear.firstWord none fun s => (s.fillWith 0 0 0 0).advance 1 := rfl

/-- SEND_FRAME's outcome from what the scan finds (R154). -/
theorem exec_sendFrame {s : State} (hf : s.faulted = false) (hd : s.initDone = true) :
    exec .sendFrame s = match s.sendScan with
      | .values vs => .next ((s.play (sendBody s.build vs s.cfgWidth.toNat)).advance 1)
      | .violation c => .next (s.raise c Instr.sendFrame.firstWord)
      | .noCell a => .fault (.noSuchCell a) := by
  cases h : s.sendScan <;> simp [exec, execSendFrame, hf, hd, h]

theorem exec_sendFrame_fresh {s : State} (hf : s.faulted = false) (hd : s.initDone = false) :
    exec .sendFrame s = .next (s.raise .uninit Instr.sendFrame.firstWord) := by
  simp [exec, execSendFrame, hf, hd]

/-- A halted controller does not accept the command, whichever it is (R206 check 0, R212). -/
theorem exec_halted (i : Instr) (s : State) (h : s.faulted = true) : exec i s = .next s := by
  cases i with
  | init ndev width => rw [exec_init, accept_halted h]
  | shiftBit bit => rw [exec_shiftBit, accept_halted h]
  | shiftValue value width => rw [exec_shiftValue, accept_halted h]
  | latch => rw [exec_latch, accept_halted h]
  | commit => rw [exec_commit, accept_halted h]
  | clear => rw [exec_clear, accept_halted h]
  | sendFrame => simp [exec, execSendFrame, h]
  | setUniform value => rw [exec_setUniform, accept_halted h]
  | fbSetPixel row col r g b w => rw [exec_fbSetPixel, accept_halted h]
  | fbFill r g b w => rw [exec_fbFill, accept_halted h]
  | fbClear => rw [exec_fbClear, accept_halted h]

/-- What a command body does to the state when the entry checks pass: it plays a wire-only body and moves on, or
configures and clears, or writes the frame buffer. -/
inductive BodyCase (i : Instr) (s : State) : State → Prop where
  | wire (as : List Action) (hwb : WireBody s.build as) (h : as.all Action.onWire = true) (hle : lastDriven .le false as = false)
      (hdclk : lastDriven .dclk false as = false) (hi : s.initDone = true) (hw : i.words = 1)
      (hb : i.isFrameBuffer = false) : BodyCase i s ((s.play as).advance 1)
  | configured (ndev : BitVec 16) (width : BitVec 8) (hi : i = .init ndev width) (hd : s.initDone = false)
      (hc : s.build.configOk ndev.toNat width.toNat = true) :
      BodyCase i s ((((s.setConfig ndev width).play
        (initActions s.build ndev.toNat (width.setWidth 5).toNat)).setInitDone).advance 1)
  | stored (m : Memory) (hb : i.isFrameBuffer = true) (hm : s.fb.wf → m.wf)
      (hc : s.build.slots = 4 → (∀ p ∈ s.fb, p.1 < s.build.cells ∧ p.2 < 2 ^ 16) → ∀ p ∈ m, p.1 < s.build.cells ∧ p.2 < 2 ^ 16) :
      BodyCase i s (({ s with fb := m }).advance i.words)

/-- Everything a command can answer. -/
theorem exec_cases (i : Instr) (s : State) :
    (s.faulted = true ∧ exec i s = .next s) ∨
    (∃ c, s.faulted = false ∧ exec i s = .next (s.raise c i.firstWord)) ∨
    (∃ t, s.faulted = false ∧ BodyCase i s t ∧ exec i s = .next t) ∨
    (∃ a, s.faulted = false ∧ s.initDone = true ∧ i = .sendFrame ∧ s.sendScan = .noCell a ∧
      exec i s = .fault (.noSuchCell a)) := by
  rcases Bool.eq_false_or_eq_true s.faulted with hf | hf
  · exact .inl ⟨hf, exec_halted i s hf⟩
  right
  have bodies : ∀ (v : Option Cause) (body : State → State), exec i s = accept s i.firstWord v body →
      (v = none → BodyCase i s (body s)) →
      (∃ c, s.faulted = false ∧ exec i s = .next (s.raise c i.firstWord)) ∨
      (∃ t, s.faulted = false ∧ BodyCase i s t ∧ exec i s = .next t) ∨
      (∃ a, s.faulted = false ∧ s.initDone = true ∧ i = .sendFrame ∧ s.sendScan = .noCell a ∧
        exec i s = .fault (.noSuchCell a)) := by
    intro v body he hb
    cases v with
    | none => exact .inr (.inl ⟨_, hf, hb rfl, he.trans (accept_pass hf rfl)⟩)
    | some c => exact .inl ⟨c, hf, he.trans (accept_violation hf rfl)⟩
  have pixel : ∀ (m : Memory) (row col : Nat) (r g b w : BitVec 16) (p : Nat × Nat), s.build.slots = 4 →
      row < s.build.rows → col < s.build.cols → (p ∈ m → p.1 < s.build.cells ∧ p.2 < 2 ^ 16) →
      p ∈ m.writePixel (s.build.pixelBase row col) r.toNat g.toNat b.toNat w.toNat →
      p.1 < s.build.cells ∧ p.2 < 2 ^ 16 := by
    intro m row col r g b w p hs hr hc hm hp
    rcases Memory.mem_writePixel _ _ _ _ _ _ _ hp with ⟨_, h2, h3⟩ | hp
    · refine ⟨h2.trans_le (Build.pixelBase_lt s.build _ _ hs hr hc), ?_⟩
      simp only [List.mem_cons, List.not_mem_nil, or_false] at h3
      rcases h3 with h | h | h | h <;> rw [h] <;> exact BitVec.isLt _
    · exact hm hp
  have filled : ∀ (r g b w : BitVec 16) (p : Nat × Nat), s.build.slots = 4 →
      (∀ p ∈ s.fb, p.1 < s.build.cells ∧ p.2 < 2 ^ 16) →
      p ∈ s.fb.fill s.build r.toNat g.toNat b.toNat w.toNat → p.1 < s.build.cells ∧ p.2 < 2 ^ 16 := by
    intro r g b w p hs hb
    exact Memory.fill_induction (fun m => p ∈ m → p.1 < s.build.cells ∧ p.2 < 2 ^ 16) _ _ _ _ _ _ (hb p)
      fun m row col hr hc hm hp => pixel m row col r g b w p hs hr hc hm hp
  cases i with
  | init ndev width =>
    refine bodies _ _ (exec_init _ _ _) fun hv => ?_
    unfold State.initCheck at hv
    split at hv
    · cases hv
    · split at hv
      · exact .configured ndev width rfl (by simpa using ‹¬s.initDone = true›) ‹_›
      · cases hv
  | shiftBit bit =>
    exact bodies _ _ (exec_shiftBit _ _) fun hv => .wire _ (.shift _) (onWire_shiftBit _ _) rfl rfl (initDone_of_needsInit hv) rfl rfl
  | shiftValue value width =>
    exact bodies _ _ (exec_shiftValue _ _ _) fun hv => .wire _ (wireBody_shiftValue _ _ _) (onWire_shiftValue _ _ _)
      (lastDriven_shiftValue_le _ _ _ _) (lastDriven_shiftValue_dclk _ _ _)
      (initDone_of_needsInit hv) rfl rfl
  | latch =>
    exact bodies _ _ (exec_latch _) fun hv => .wire _ .latch (onWire_lePulse _ _) (by simp) (by simp)
      (initDone_of_needsInit hv) rfl rfl
  | commit =>
    exact bodies _ _ (exec_commit _) fun hv => .wire _ .commit (onWire_lePulse _ _) (by simp) (by simp)
      (initDone_of_needsInit hv) rfl rfl
  | clear =>
    exact bodies _ _ (exec_clear _) fun hv => .wire _ (wireBody_clearBody _ _ _) (onWire_clearBody _ _ _) (by simp) (by simp)
      (initDone_of_needsInit hv) rfl rfl
  | sendFrame =>
    rcases Bool.eq_false_or_eq_true s.initDone with hd | hd
    · have he := exec_sendFrame hf hd
      cases hs : s.sendScan with
      | values vs =>
        rw [hs] at he
        exact .inr (.inl ⟨_, hf, .wire _ (wireBody_sendBody _ _ _) (onWire_sendBody _ _ _) (by simp) (by simp) hd rfl rfl, he⟩)
      | violation c => rw [hs] at he; exact .inl ⟨c, hf, he⟩
      | noCell a => rw [hs] at he; exact .inr (.inr ⟨a, hf, hd, rfl, rfl, he⟩)
    · exact .inl ⟨_, hf, exec_sendFrame_fresh hf hd⟩
  | setUniform value =>
    refine bodies _ _ (exec_setUniform _ _) fun hv => ?_
    exact .wire _ (wireBody_sendBody _ _ _) (onWire_sendBody _ _ _) (by simp) (by simp) (initDone_of_needsInit (Option.or_eq_none_iff.1 hv).1)
      rfl rfl
  | fbSetPixel row col r g b w =>
    refine bodies _ _ (exec_fbSetPixel _ _ _ _ _ _ _) fun hv => ?_
    unfold State.indexCheck at hv
    split at hv
    · rename_i h
      exact .stored _ rfl (Memory.wf_writePixel _ _ _ _ _ _) fun hs hb p hp =>
        pixel _ _ _ _ _ _ _ p hs h.1 h.2 (hb p) hp
    · cases hv
  | fbFill r g b w =>
    exact bodies _ _ (exec_fbFill _ _ _ _ _) fun _ =>
      .stored _ rfl (Memory.wf_fill _ _ _ _ _ _) fun hs hb p hp => filled _ _ _ _ p hs hb hp
  | fbClear =>
    exact bodies _ _ (exec_fbClear _) fun _ =>
      .stored _ rfl (Memory.wf_fill _ _ _ _ _ _) fun hs hb p hp => filled 0 0 0 0 p hs hb hp

/-- What every body keeps: FAULT, the command stream, the build parameters and the trace so far; `pc` moves on by the
command's length. -/
theorem BodyCase.keeps {i : Instr} {s t : State} (h : BodyCase i s t) :
    t.faulted = s.faulted ∧ t.prog = s.prog ∧ t.build = s.build ∧ t.cause = s.cause ∧ t.finfo = s.finfo ∧
      s.trace <+: t.trace ∧ t.pc = s.pc + i.words := by
  cases h with
  | wire as hwb h hle hdclk hi hw hb =>
    exact ⟨by simp, by simp, by simp, by simp, by simp, State.play_trace_grows s as, by simp [hw]⟩
  | configured ndev width hi hd hc =>
    subst hi
    exact ⟨by simp, by simp, by simp, by simp, by simp, State.play_trace_grows (s.setConfig ndev width) _,
      by simp [Instr.words]⟩
  | stored m hb hm hc =>
    exact ⟨rfl, rfl, rfl, rfl, rfl, List.prefix_refl _, rfl⟩

/-- A body ends with DCLK and LE idle once INIT_DONE is set, if they were idle before (R22). -/
theorem BodyCase.idle {i : Instr} {s t : State} (h : BodyCase i s t)
    (hs : s.initDone = true → s.line.dclk = false ∧ s.line.le = false) :
    t.initDone = true → t.line.dclk = false ∧ t.line.le = false := by
  cases h with
  | wire as hwb h hle hdclk hi hw hb =>
    intro _
    obtain ⟨h1, h2⟩ := hs hi
    exact ⟨by simpa [h1] using hdclk, by simpa [h2] using hle⟩
  | configured ndev width hi hd hc =>
    intro _
    exact ⟨by simp [initActions], by simp [initActions]⟩
  | stored m hb hm hc => exact hs

/-- A step of a controller that is not halted, by what stands at `pc`. -/
theorem step_running {s : State} (hf : s.faulted = false) :
    step s = match s.environment.fetch with
      | .none => .next s.environment
      | .illegal w0 => execIllegal w0 s.environment
      | .cutShort => .refused .programCutShort
      | .command i _ => exec i s.environment := by
  cases h : s.environment.fetch <;> simp [step, hf, h]

theorem step_halted {s : State} (hf : s.faulted = true) : step s = .next s.environment := by simp [step, hf]

/-- Everything a step can answer: the environment moves first, then nothing, a fault entry, a command's body, or a
stop. -/
theorem step_cases (s : State) :
    (step s = .next s.environment ∧ (s.faulted = true ∨ s.environment.fetch = .none)) ∨
    (∃ c w0, s.faulted = false ∧ step s = .next (s.environment.raise c w0)) ∨
    (∃ i rest t, s.faulted = false ∧ s.environment.fetch = .command i rest ∧ BodyCase i s.environment t ∧
      step s = .next t) ∨
    (∃ a rest, s.faulted = false ∧ s.environment.fetch = .command .sendFrame rest ∧ s.initDone = true ∧
      s.environment.sendScan = .noCell a ∧ step s = .fault (.noSuchCell a)) ∨
    (s.faulted = false ∧ s.environment.fetch = .cutShort ∧ step s = .refused .programCutShort) := by
  rcases Bool.eq_false_or_eq_true s.faulted with hf | hf
  · exact .inl ⟨step_halted hf, .inl hf⟩
  have hs := step_running hf
  cases hd : s.environment.fetch with
  | none => rw [hd] at hs; exact .inl ⟨hs, .inr rfl⟩
  | illegal w0 =>
    rw [hd] at hs
    exact .inr (.inl ⟨.illegal, w0, hf, hs.trans (accept_violation (by simpa using hf) rfl)⟩)
  | cutShort => rw [hd] at hs; exact .inr (.inr (.inr (.inr ⟨hf, rfl, hs⟩)))
  | command i rest =>
    rw [hd] at hs
    rcases exec_cases i s.environment with ⟨h1, _⟩ | ⟨c, _, h2⟩ | ⟨t, _, h2, h3⟩ | ⟨a, _, h1, h2, h3, h4⟩
    · simp [hf] at h1
    · exact .inr (.inl ⟨c, _, hf, hs.trans h2⟩)
    · exact .inr (.inr (.inl ⟨i, rest, t, hf, rfl, h2, hs.trans h3⟩))
    · subst h2
      exact .inr (.inr (.inr (.inl ⟨a, rest, hf, rfl, by simpa using h1, h3, hs.trans h4⟩)))

/-- A run of one step and `n` more, on any machine. -/
theorem run_succ (M : Host.Core) (n : Nat) (s : M.State) :
    M.run (n + 1) s =
      match M.step s with
      | .next t => M.run n t
      | .fault r => .fault r
      | .refused r => .refused r := rfl

/-- A run of this machine goes on from the state its first step answers. -/
theorem core_run_succ {n : Nat} {s t : State} (h : step s = .next t) : core.run (n + 1) s = core.run n t := by
  have hs : core.step s = .next t := h
  have hr := run_succ core n s
  rw [hr, hs]

end Sys2Proof.Machine
end

