-- ==== Sys2Proof/Laws/PerInstr.lean ====
section
/-! SUPPORT. What holds of every command as syntax, constructor by constructor: its encoding has the length R91 gives its
opcode, and its opcode stands in the top bits of the first word (R90, R92). -/

namespace Sys2Proof.Laws.EncodeLength

/-- The encoder writes `words` words and puts the opcode of R92 into bits 31:24 of the first. -/
def Statement (i : Instr) : Prop := (encode i).length = i.words ∧ opcodeOf i.firstWord = i.opcode

theorem init (ndev : BitVec 16) (width : BitVec 8) : Statement (.init ndev width) := ⟨rfl, opcodeOf_wide _ _ _⟩
theorem shiftBit (bit : BitVec 1) : Statement (.shiftBit bit) := ⟨rfl, opcodeOf_bit _ _ _⟩
theorem shiftValue (value : BitVec 16) (width : BitVec 8) : Statement (.shiftValue value width) :=
  ⟨rfl, opcodeOf_wide _ _ _⟩
theorem latch : Statement .latch := ⟨rfl, rfl⟩
theorem commit : Statement .commit := ⟨rfl, rfl⟩
theorem clear : Statement .clear := ⟨rfl, rfl⟩
theorem sendFrame : Statement .sendFrame := ⟨rfl, rfl⟩
theorem setUniform (value : BitVec 16) : Statement (.setUniform value) := ⟨rfl, opcodeOf_wide _ _ _⟩
theorem fbSetPixel (row col : BitVec 12) (r g b w : BitVec 16) : Statement (.fbSetPixel row col r g b w) :=
  ⟨rfl, opcodeOf_pixel _ _ _⟩
theorem fbFill (r g b w : BitVec 16) : Statement (.fbFill r g b w) := ⟨rfl, opcodeOf_pair _ _⟩
theorem fbClear : Statement .fbClear := ⟨rfl, rfl⟩

end Sys2Proof.Laws.EncodeLength
end

