-- ==== Sys2Proof/Tests/Slice0.lean ====
section
/-! SUPPORT. Tests, each about one word, one operation or one step; expected results come from 95_test_vectors.md (the
vector is named) or from the rule named. Below them, for each obligation with hypotheses, states and operands that meet
them. -/

namespace Sys2Proof.Tests

open Sys2Proof.Machine

-- Helpers

/-- The state of a next outcome. -/
def nextOf : Host.Outcome State Fault Refusal → Option State
  | .next s => some s
  | .fault _ => none
  | .refused _ => none

/-- Initialised as after INIT 1, 12 on the 2 x 2 grid, with the clock recorded in the trace (R125). -/
def running : State :=
  { State.reset with
    status := 0b101#3, cfgNdev := 1, cfgWidth := 12, dir := configuredDirs, trace := [.gclkOn 800000 50] }

/-- As `running` but with the clock still: nothing but the command moves, so that a test can compare the whole trace. -/
def still : State := { running with status := 0b001#3, trace := [] }

/-- The frame of V-FR-5 (every pixel 123, 456, 789, ABC). -/
def frame5 : Memory :=
  [(0, 0x123), (1, 0x456), (2, 0x789), (3, 0xABC), (4, 0x123), (5, 0x456), (6, 0x789), (7, 0xABC),
   (8, 0x123), (9, 0x456), (10, 0x789), (11, 0xABC), (12, 0x123), (13, 0x456), (14, 0x789), (15, 0xABC)]

/-- `running` with a frame. -/
def framed : State := { running with fb := frame5 }

/-- A halted controller (R212), after CV_UNINIT on a SEND_FRAME (V-FLT-1). -/
def halted : State :=
  { State.reset with status := 0b010#3, cause := 1, finfo := 0x07000000, trace := [.fault .uninit] }

-- Well-formedness: what each check refuses

theorem test_default_build_wellFormed : Build.default.wellFormed = true := by decide
theorem test_no_rows_refused : ({ Build.default with rows := 0 } : Build).wellFormed = false := by decide
theorem test_too_many_rows_refused : ({ Build.default with rows := 4097 } : Build).wellFormed = false := by decide
theorem test_no_cols_refused : ({ Build.default with cols := 0 } : Build).wellFormed = false := by decide
theorem test_too_many_cols_refused : ({ Build.default with cols := 4097 } : Build).wellFormed = false := by decide
theorem test_repeated_channel_refused :
    ({ Build.default with chOrder := [0, 0, 2, 3, 4, 5, 6, 7, 8, 9, 10, 11, 12, 13, 14, 15] } : Build).wellFormed =
      false := by decide
theorem test_short_channel_order_refused :
    ({ Build.default with chOrder := [0, 1, 2, 3, 4, 5, 6, 7, 8, 9, 10, 11, 12, 13, 14] } : Build).wellFormed =
      false := by decide
theorem test_channel_16_refused :
    ({ Build.default with chOrder := [16, 1, 2, 3, 4, 5, 6, 7, 8, 9, 10, 11, 12, 13, 14, 15] } : Build).wellFormed =
      false := by decide
theorem test_other_shapes_refused :
    ({ Build.default with nch := 8, chOrder := [0, 1, 2, 3, 4, 5, 6, 7] } : Build).wellFormed = false ∧
    ({ Build.default with slots := 3 } : Build).wellFormed = false ∧
    ({ Build.default with cellBits := 12 } : Build).wellFormed = false ∧
    ({ Build.default with latchPulses := 2 } : Build).wellFormed = false ∧
    ({ Build.default with commitPulses := 1 } : Build).wellFormed = false := by decide
/-- The timing parameters are arguments with a default (D25). -/
theorem test_other_times_accepted :
    ({ Build.default with tBitNs := 1, tLeNs := 7, gclkHz := 5, gclkDutyPct := 10 } : Build).wellFormed = true := by
  decide
/-- V-DEC-6, R76 -/
theorem test_cut_short_refused : admitted [0x10000000#32, 0#32] = false := by decide
/-- V-DEC-5, R76 -/
theorem test_whole_admitted : admitted [0x11000000#32, 0x04000000#32, 0x05000000#32] = true := by decide

-- Decoding: words written out from R93 to R97 (V-ENC, V-DEC)

theorem test_decode_init : decode [0x01100004#32] = .command (.init 4 16) [] := by decide
theorem test_decode_init_wide : decode [0x0110FFFF#32] = .command (.init 65535 16) [] := by decide
theorem test_decode_shiftBit : decode [0x02000000#32] = .command (.shiftBit 0) [] := by decide
theorem test_decode_shiftValue : decode [0x03FFFFFF#32] = .command (.shiftValue 0xFFFF 255) [] := by decide
theorem test_decode_shiftValue_0 : decode [0x0300FFFF#32] = .command (.shiftValue 0xFFFF 0) [] := by decide
theorem test_decode_latch : decode [0x04000000#32] = .command .latch [] := by decide
theorem test_decode_commit : decode [0x05000000#32] = .command .commit [] := by decide
theorem test_decode_clear : decode [0x06000000#32] = .command .clear [] := by decide
theorem test_decode_sendFrame : decode [0x07000000#32] = .command .sendFrame [] := by decide
theorem test_decode_setUniform : decode [0x08008000#32] = .command (.setUniform 0x8000) [] := by decide
theorem test_decode_fbSetPixel :
    decode [0x10FFFFFF#32, 0#32, 0#32, 0x12000000#32] =
      .command (.fbSetPixel 4095 4095 0 0 0 0) [0x12000000#32] := by decide
theorem test_decode_fbFill :
    decode [0x11000000#32, 0x11112222#32, 0x33334444#32] = .command (.fbFill 0x1111 0x2222 0x3333 0x4444) [] := by
  decide
theorem test_decode_fbClear : decode [0x12000000#32] = .command .fbClear [] := by decide

/-- V-DEC-3: reserved opcodes, a word for each. -/
theorem test_reserved_opcodes_illegal :
    [0x00000000#32, 0xFFFFFFFF#32, 0x09000000#32, 0x0F000000#32, 0x13000000#32].all
      (fun w => decide (decode [w] = .illegal w)) = true := by decide

/-- V-DEC-4: must-be-zero bits set, a word for each format. -/
theorem test_nonzero_fields_illegal :
    [0x02000002#32, 0x04000001#32, 0x06800000#32, 0x08010000#32, 0x12000001#32].all
      (fun w => decide (decode [w] = .illegal w)) = true := by decide
theorem test_fill_nonzero_field_illegal : decode [0x11000001#32, 0#32, 0#32] = .illegal 0x11000001#32 := by decide

-- Encoding (V-ENC)

theorem test_encode_init : encode (.init 1 12) = [0x010C0001#32] := by decide
theorem test_encode_fbSetPixel :
    encode (.fbSetPixel 1 3 0xAAAA 0xBBBB 0xCCCC 0xDDDD) = [0x10001003#32, 0xAAAABBBB#32, 0xCCCCDDDD#32] := by decide
/-- R103 -/
theorem test_asm_shiftValue : (Instr.shiftValue 0xA5 8).asm = "SHIFT_VALUE 165, 8" := by decide

-- Where the host places a word

theorem test_table_word : decodeTableWord 32 0x0110000400000000 = none := by decide
theorem test_table_word_init : decodeTableWord 32 0x01100004 = some (.init 4 16) := by decide
theorem test_table_word_pixel :
    decodeTableWord 96 0x033304440111022210001000 = some (.fbSetPixel 1 0 0x0111 0x0222 0x0333 0x0444) := by decide
theorem test_withFetchWord :
    (State.reset.withFetchWord 32 0x06000000).fetch = .command .clear [0#32, 0#32] := by decide

-- Reset (R35)

theorem test_reset_pins : State.reset.pin .sdi = none ∧ State.reset.pin .sdo = none := by decide
theorem test_reset_csrs :
    State.reset.csr .cfgNdev = none ∧ State.reset.csr .cfgNch = some 16 ∧ State.reset.csr .status = some 0 := by decide

-- Steps: shifting (part 2.2)

/-- V-SH-1: the five events. -/
theorem test_shiftBit :
    (nextOf (exec (.shiftBit 1) still)).map State.trace =
      some [.set .sdi true, .wait 1000, .set .dclk true, .wait 1000, .set .dclk false] := by decide
/-- V-SH-5: a value wider than the width. -/
theorem test_shiftValue_truncates :
    (nextOf (exec (.shiftValue 0xABCD 12) still)).map (fun t => shiftsOf (protocolTrace t.trace)) =
      some [true, false, true, true, true, true, false, false, true, true, false, true] := by decide +kernel
/-- V-SH-7: width 0 sends nothing. -/
theorem test_shiftValue_0 :
    (nextOf (exec (.shiftValue 0x123 0) still)).map (fun t => (t.trace, t.pc)) = some ([], 1) := by decide

-- Steps: latch and commit (part 2.3)

/-- V-LE-1 -/
theorem test_latch :
    (nextOf (exec .latch still)).map (fun t => (protocolTrace t.trace, minDuration t.trace)) =
      some ([.lePulse 1], 10000) := by decide
/-- V-LE-2 -/
theorem test_commit :
    (nextOf (exec .commit still)).map (fun t => (protocolTrace t.trace, t.trace.length)) =
      some ([.lePulse 3], 19) := by decide

-- Steps: frames, on the width-1 chain (16 bits a frame)

/-- R150 -/
theorem test_clear :
    (nextOf (exec .clear { still with cfgWidth := 1 })).map (fun t => protocolTrace t.trace) =
      some (List.replicate 16 (.shift false) ++ [.lePulse 1, .lePulse 3]) := by decide +kernel
/-- R153: with CH_ORDER descending the channel of cell 15 goes first (V-FR-9). -/
theorem test_sendFrame_channel_order :
    (nextOf (exec .sendFrame
      { still with
        cfgWidth := 1
        build := { still.build with chOrder := [15, 14, 13, 12, 11, 10, 9, 8, 7, 6, 5, 4, 3, 2, 1, 0] }
        fb := Memory.write (Memory.fill [] still.build 0 0 0 0) 15 1 })).map
          (fun t => shiftsOf (protocolTrace t.trace)) = some (true :: List.replicate 15 false) := by
  decide +kernel
/-- V-FLT-10: of two bad cells the first in transmission order decides. -/
theorem test_sendFrame_first_bad_cell :
    (nextOf (exec .sendFrame
      { still with fb := [(0, 0), (1, 0), (2, 0), (3, 0), (12, 0xFFFF), (13, 0xFFFF), (14, 0xFFFF), (15, 0xFFFF)] })).map
          (fun t => (t.cause, t.pc, t.trace)) = some (6, 0, [.fault .unwritten]) := by decide
/-- V-FR-8, on the width-1 chain: MAXV itself is accepted. -/
theorem test_setUniform_maxv :
    (nextOf (exec (.setUniform 1) { still with cfgWidth := 1 })).map (fun t => shiftsOf (protocolTrace t.trace)) =
      some (List.replicate 16 true) := by decide +kernel
/-- V-FLT-8 -/
theorem test_setUniform_range :
    (nextOf (exec (.setUniform 0x1000) running)).map (fun t => (t.status, t.cause, t.finfo, t.pc)) =
      some (0b111, 5, 0x08001000, 0) := by decide

-- Steps: INIT (part 2.7)

/-- V-FLT-3c: width 0. -/
theorem test_init_width_0 :
    (nextOf (exec (.init 1 0) State.reset)).map (fun t => (t.status, t.cause, t.dir)) = some (0b010, 3, resetDirs) := by
  decide
/-- R125, on the width-1 chain. -/
theorem test_init :
    (nextOf (exec (.init 1 1) State.reset)).map (fun t => (t.status, t.cfgNdev, t.cfgWidth, t.dir, t.pc)) =
      some (0b101, 1, 1, configuredDirs, 1) := by decide

/-- R62: a table that lists the default values is the default map, so the grid must fill the chain exactly; with one
value changed it is another map, and the grid may be larger. -/
theorem test_init_table_of_default_values :
    (nextOf (exec (.init 1 1)
      { State.reset with build := { rows := 2, cols := 4, fbMap := .table (List.range 16) } })).map
        (fun t => (t.status, t.cause)) = some (0b010, 3) ∧
    (nextOf (exec (.init 1 1)
      { State.reset with build := { rows := 2, cols := 4, fbMap := .table (31 :: List.range' 1 15) } })).map
        (fun t => (t.status, t.cause)) = some (0b101, 0) := by decide

-- Steps: the frame buffer (part 2.5)

/-- V-FB-1 -/
theorem test_fbSetPixel :
    (nextOf (exec (.fbSetPixel 1 0 0x111 0x222 0x333 0x444) State.reset)).map (fun t => (t.fb, t.pc, t.trace)) =
      some ([(8, 0x111), (9, 0x222), (10, 0x333), (11, 0x444)], 3, []) := by decide
/-- V-FB-6 -/
theorem test_fbSetPixel_row_2 :
    (nextOf (exec (.fbSetPixel 2 0 0 0 0 0) State.reset)).map (fun t => (t.fb, t.cause, t.trace, t.pc)) =
      some ([], 4, [.fault .index], 0) := by decide
/-- V-FB-2 -/
theorem test_fbFill :
    (nextOf (exec (.fbFill 0xFFFF 0 0 0) State.reset)).map
        (fun t => (t.fb.map Prod.fst, t.fb.map Prod.snd, t.pc)) =
      some (List.range 16, [0xFFFF, 0, 0, 0, 0xFFFF, 0, 0, 0, 0xFFFF, 0, 0, 0, 0xFFFF, 0, 0, 0], 3) := by decide
/-- V-FB-3 -/
theorem test_fbClear :
    (nextOf (exec .fbClear State.reset)).map (fun t => (t.fb.map Prod.snd, t.pc)) =
      some (List.replicate 16 0, 1) := by decide

/-- V-FB-4: a cell stores a value above MAXV as given. -/
theorem test_fbSetPixel_stores_as_given :
    (nextOf (exec (.fbSetPixel 0 0 0xFFFF 0 0 0) running)).map (fun t => t.fb.read 0) = some (some 0xFFFF) := by decide

-- Steps from the program

/-- V-FLT-7: an illegal word. -/
theorem test_step_illegal :
    (nextOf (step { State.reset with prog := [0x04000001#32] })).map (fun t => (t.status, t.cause, t.finfo, t.pc)) =
      some (0b010, 7, 0x04000001, 0) := by decide
/-- V-FB-3 through the fetch. -/
theorem test_step_runs :
    (nextOf (step (State.reset.withFetchWord 32 0x12000000))).map (fun t => (t.fb.length, t.pc)) = some (16, 1) := by
  decide
/-- V-DEC-6 -/
theorem test_step_cut_short : nextOf (step { State.reset with prog := [0x10000000#32, 0#32] }) = none := by decide
/-- V-FLT-11: a halted controller does not execute the next word. -/
theorem test_step_halted :
    (nextOf (step { halted with prog := [0x010C0001#32] })).map (fun t => (t.status, t.pc, t.trace)) =
      some (0b010, 0, [.fault .uninit]) := by decide

-- The observer and the host (parts 2.8 and 3)

/-- P4 on the wire: nine bits end at the near end of `sr`; `hold` and `out` wait for their pulses (R193). -/
theorem test_observer_latch :
    (Chain.run { sr := List.replicate 4 (some false), hold := List.replicate 4 none, out := List.replicate 4 none }
      [.shift true, .shift false, .lePulse 1]).map (fun c => (c.hold, c.out)) =
      some ([some false, some true, some false, some false], List.replicate 4 none) := by decide
/-- U7: with the parameter set, a DCLK pulse under LE high shifts too. -/
theorem test_observer_parameter :
    protocolFrom true Probe.start (actionEvents (lePulse Build.default 1)) = [.shift false, .lePulse 1] := by decide
/-- V-SEQ-1 -/
theorem test_pulse_levels : pulseLevels 4095 1024 = [0, 1024, 2048, 3072, 4095, 3071, 2047, 1023, 0] := by decide
/-- V-SEQ-2 -/
theorem test_off_words : hostWords (hostOff 5) = [0x12000000#32, 0x07000000#32] := by decide
/-- P3, phase 1: the first two pixels. -/
theorem test_checker_words :
    (hostWords (checkerPhase Build.default ⟨0xFFF, 0, 0, 0⟩ ⟨0, 0, 0xFFF, 0⟩ 7)).take 6 =
      [0x10000000#32, 0x0FFF0000#32, 0#32, 0x10000001#32, 0#32, 0x0FFF0000#32] := by decide

-- Witnesses: states and operands that meet the hypotheses of each obligation

/-- Every witness below runs on these parameters. -/
theorem build_wellFormed :
    running.build.wellFormed = true ∧ State.reset.build.wellFormed = true ∧
    running.build.tBitNs ≤ running.build.tLeNs := by decide
theorem running_is_running : running.Running := ⟨rfl, rfl⟩
theorem reset_is_fresh : State.reset.Fresh := ⟨rfl, rfl⟩
theorem running_status : running.StatusInv := by
  refine ⟨fun _ => ⟨rfl, rfl, rfl, rfl, by decide⟩, fun h => ?_, fun _ => ⟨rfl, rfl⟩, fun h => ?_⟩ <;> cases h
theorem framed_status : framed.StatusInv := running_status
theorem reset_status : State.reset.StatusInv := by
  refine ⟨fun h => ?_, fun _ => ⟨rfl, rfl⟩, fun _ => ⟨rfl, rfl⟩, fun h => ?_⟩ <;> cases h

theorem witness_ResetPutsEverythingAtItsResetValue :
    running.build.wellFormed = true ∧ (∃ t, t = running.resetEvent) ∧ ∃ t, t = State.reset :=
  ⟨by decide, ⟨_, rfl⟩, _, rfl⟩

theorem witness_DecodedWordsAreTheEncoding :
    decode [0x10001003#32, 0xAAAABBBB#32, 0xCCCCDDDD#32, 0#32] =
      .command (.fbSetPixel 1 3 0xAAAA 0xBBBB 0xCCCC 0xDDDD) [0#32] := by decide

/-- A word the last row selects; a word none selects, one bit away from a row's. -/
theorem witness_IllegalWordsAreThoseNoRowSelects :
    (∃ r ∈ opcodeTable, r.selects 0x12000000#32 = true) ∧ ∀ r ∈ opcodeTable, r.selects 0x12000001#32 = false := by
  decide

theorem witness_LengthIsAFunctionOfTheOpcode :
    decode [0x0F0F0F0F#32] = .illegal 0x0F0F0F0F#32 ∧
    decode (0x12000000#32 :: [0#32]) = .command .fbClear [0#32] ∧
    opcodeOf 0x11000000#32 = 0x11#8 ∧
    decode (0x11000000#32 :: 0#32 :: 0xFFFFFFFF#32 :: []) = .command (.fbFill 0 0 0xFFFF 0xFFFF) [] := by decide

theorem witness_StepRunsTheCommandAtPc :
    ({ running with prog := [0x05000000#32] } : State).fetch = .command .commit [] := by decide

theorem witness_IllegalWordAtPcFaults :
    ({ running with prog := [0#32] } : State).faulted = false ∧
    ({ running with prog := [0#32] } : State).fetch = .illegal 0#32 := by decide

theorem witness_EndedProgramWaitsForTheHost : State.reset.prog.length ≤ State.reset.pc := by decide

/-- A FB_FILL without its last word; an illegal word; one word of a FB_FILL at `pc`. -/
theorem witness_CutShortProgramsAreRefused :
    decode [0x11000000#32, 0#32] = .cutShort ∧ decode [0xFF000000#32, 0x11000000#32] = .illegal 0xFF000000#32 ∧
    ({ State.reset with prog := [0x11000000#32] } : State).faulted = false ∧
    ({ State.reset with prog := [0x11000000#32] } : State).fetch = .cutShort := by decide

/-- For ShiftBitCompletes, ShiftValueCompletes (both width clauses), LatchCompletes, CommitCompletes and ClearCompletes
(the clause on a chain of at least one device). -/
theorem witness_running_completions :
    running.build.wellFormed = true ∧ running.Running ∧ 0 < (1 : BitVec 8).toNat ∧ (0 : BitVec 8).toNat = 0 ∧
    0 < running.cfgNdev.toNat ∧ 0 < running.cfgWidth.toNat := ⟨build_wellFormed.1, running_is_running, by decide⟩

/-- MAXV of the width-12 chain is the boundary (V-FR-8). -/
theorem witness_SetUniformCompletes :
    running.build.wellFormed = true ∧ running.Running ∧
    (0xFFF : BitVec 16).toNat ≤ 2 ^ running.cfgWidth.toNat - 1 :=
  ⟨build_wellFormed.1, running_is_running, by decide⟩

theorem witness_SendFrameCompletes :
    framed.build.wellFormed = true ∧ framed.Running ∧
    ∀ d < framed.cfgNdev.toNat, ∀ c < 16, framed.build.fbAddr d c < framed.build.cells ∧
      framed.fb.read (framed.build.fbAddr d c) = some ((frame5.map Prod.snd).getD c 0) ∧
      ((frame5.map Prod.snd).getD c 0) ≤ 2 ^ framed.cfgWidth.toNat - 1 :=
  ⟨build_wellFormed.1, running_is_running, by decide⟩

theorem witness_InitCompletes :
    State.reset.build.wellFormed = true ∧ State.reset.status = 0 ∧
    State.reset.build.configOk (1 : BitVec 16).toNat (16 : BitVec 8).toNat = true := by decide

theorem witness_FbSetPixelCompletes :
    State.reset.faulted = false ∧ (1 : BitVec 12).toNat < State.reset.build.rows ∧
    (1 : BitVec 12).toNat < State.reset.build.cols := by decide

/-- For FbFillCompletes and FbClearCompletes, before INIT and after it. -/
theorem witness_FbFill_and_FbClear :
    State.reset.build.wellFormed = true ∧ State.reset.faulted = false ∧ running.build.wellFormed = true ∧
    running.faulted = false := by decide

theorem witness_UninitialisedCommandsFault : State.reset.Fresh ∧ Instr.setUniform 0 = .setUniform 0 :=
  ⟨reset_is_fresh, rfl⟩

/-- R122's list for the witnesses of INIT. -/
abbrev ListedConfig (s : State) (ndev width : Nat) : Prop :=
  1 ≤ ndev ∧ 1 ≤ width ∧ width ≤ 16 ∧
    (∀ d < ndev, ∀ c < 16, s.build.fbAddr d c < s.build.rows * s.build.cols * 4) ∧
    ((∀ d < ndev, ∀ c < 16, s.build.fbAddr d c = d * 16 + c) → s.build.rows * s.build.cols * 4 = ndev * 16)

/-- A second INIT; first ones with width 17, width 0, no device, two devices on a grid for one; a good one. -/
theorem witness_InitChecksInOrder :
    State.reset.build.wellFormed = true ∧ running.initDone = true ∧ running.faulted = false ∧
    State.reset.initDone = false ∧ State.reset.faulted = false ∧
    ¬ ListedConfig State.reset (1 : BitVec 16).toNat (17 : BitVec 8).toNat ∧
    ¬ ListedConfig State.reset (1 : BitVec 16).toNat (0 : BitVec 8).toNat ∧
    ¬ ListedConfig State.reset (0 : BitVec 16).toNat (16 : BitVec 8).toNat ∧
    ¬ ListedConfig State.reset (2 : BitVec 16).toNat (16 : BitVec 8).toNat ∧
    ListedConfig State.reset (1 : BitVec 16).toNat (16 : BitVec 8).toNat := by decide

/-- Row 2 and column 2 are the first outside the grid; MAXV + 1 is the first value out of range. -/
theorem witness_IndexAndUniformRangeFault :
    State.reset.faulted = false ∧ State.reset.build.rows ≤ (2 : BitVec 12).toNat ∧
    State.reset.build.cols ≤ (2 : BitVec 12).toNat ∧ running.Running ∧
    2 ^ running.cfgWidth.toNat - 1 < (0x1000 : BitVec 16).toNat :=
  ⟨by decide, by decide, by decide, running_is_running, by decide⟩

/-- The last cell of the frame unwritten; the last cell one above MAXV; and, in a state no run reaches, a second device
that the grid has no cell for. -/
theorem witness_FirstOffendingCellDecides :
    (∃ s : State, s.Running ∧ s.build.sendCells s.cfgNdev.toNat = List.range 15 ++ 15 :: [] ∧
      (∀ x ∈ List.range 15, x < s.build.cells ∧ ∃ v, s.fb.read x = some v ∧ v ≤ 2 ^ s.cfgWidth.toNat - 1) ∧
      15 < s.build.cells ∧ s.fb.read 15 = none) ∧
    (∃ s : State, s.Running ∧ s.build.sendCells s.cfgNdev.toNat = List.range 15 ++ 15 :: [] ∧
      (∀ x ∈ List.range 15, x < s.build.cells ∧ ∃ v, s.fb.read x = some v ∧ v ≤ 2 ^ s.cfgWidth.toNat - 1) ∧
      15 < s.build.cells ∧ ∃ v, s.fb.read 15 = some v ∧ 2 ^ s.cfgWidth.toNat - 1 < v) ∧
    (∃ (s : State) (a : Nat) (rest : List Nat), s.Running ∧
      s.build.sendCells s.cfgNdev.toNat = [] ++ a :: rest ∧ s.build.cells ≤ a) := by
  refine ⟨⟨{ framed with fb := frame5.take 15 }, running_is_running, by decide, ?_, by decide, by decide⟩,
    ⟨{ framed with fb := frame5.take 15 ++ [(15, 0x1000)] }, running_is_running, by decide, ?_, by decide,
      0x1000, by decide, by decide⟩,
    ⟨{ framed with cfgNdev := 2 }, 16, List.range' 17 15 ++ List.range 16, running_is_running, by decide, by decide⟩⟩
  · intro x hx
    exact ⟨(by decide : ∀ x ∈ List.range 15, x < framed.build.cells) x hx, (frame5.map Prod.snd).getD x 0,
      (by decide : ∀ x ∈ List.range 15, Memory.read (frame5.take 15) x = some ((frame5.map Prod.snd).getD x 0) ∧
        ((frame5.map Prod.snd).getD x 0) ≤ 2 ^ framed.cfgWidth.toNat - 1) x hx⟩
  · intro x hx
    exact ⟨(by decide : ∀ x ∈ List.range 15, x < framed.build.cells) x hx, (frame5.map Prod.snd).getD x 0,
      (by decide : ∀ x ∈ List.range 15,
        Memory.read (frame5.take 15 ++ [(15, 0x1000)]) x = some ((frame5.map Prod.snd).getD x 0) ∧
        ((frame5.map Prod.snd).getD x 0) ≤ 2 ^ framed.cfgWidth.toNat - 1) x hx⟩

theorem witness_SendCellsFollowTransmissionOrder :
    Build.default.wellFormed = true ∧ (0 : Nat) < 2 ∧ (15 : Nat) < 16 ∧ Build.default.fbMap = .linear := by decide

/-- A command and an illegal word that take a fault. -/
theorem witness_FaultEntryIsPrecise :
    State.reset.faulted = false ∧
    (∃ t, exec .sendFrame State.reset = .next t ∧ t.faulted = true) ∧
    (∃ t, execIllegal 0 State.reset = .next t ∧ t.faulted = true) ∧
    running.StatusInv ∧ ∃ t, exec (.setUniform 0x1000) running = .next t ∧ t.faulted = true ∧ t.initDone = true :=
  ⟨rfl, ⟨_, rfl, rfl⟩, ⟨_, rfl, rfl⟩, running_status, ⟨_, rfl, rfl, rfl⟩⟩

theorem witness_HaltedControllerStaysHalted : halted.faulted = true := by decide

/-- A LATCH in the running phase. -/
def latching : State := { running with prog := [0x04000000#32] }

/-- For StepKeepsTheStatusInvariant, StepKeepsTheMemoryInvariant, StepKeepsPulseCountsOneOrThree,
StepKeepsTheWireOrderings, ClockTogglesAgain, AdmittedProgramsNeverStop and StepNeverUndoes. -/
theorem witness_steps :
    latching.build.wellFormed = true ∧ latching.build.tBitNs ≤ latching.build.tLeNs ∧ latching.gclkEn = true ∧
    latching.StatusInv ∧ latching.MemoryInv ∧ latching.PulseInv ∧ latching.WireInv ∧ latching.Admitted ∧
    ∃ t, step latching = .next t :=
  ⟨build_wellFormed.1, build_wellFormed.2.2, rfl, running_status,
    ⟨List.Pairwise.nil, fun _ h => by cases h⟩, ⟨rfl, rfl, fun _ h => by cases h⟩, ⟨_, rfl, rfl, rfl, Nat.le_refl _⟩, rfl, ⟨_, rfl⟩⟩

theorem witness_StepKeepsTheClockOrder :
    latching.StatusInv ∧ latching.GclkInv ∧ ∃ t, step latching = .next t := by
  refine ⟨running_status, ⟨fun h => ?_, fun _ => ⟨List.mem_cons_self, 0, rfl, rfl⟩, ?_⟩, ⟨_, rfl⟩⟩
  · cases h
  intro before after h hn
  cases before with
  | nil => rfl
  | cons e es =>
    injection h with h1 h2
    exact absurd (h1 ▸ List.mem_cons_self) hn

theorem witness_OnlyFrameBufferCommandsWriteCells :
    (∃ t, exec .fbClear running = .next t ∧ Instr.fbClear.isFrameBuffer = true) ∧
    (∃ t, exec .latch running = .next t ∧ Instr.latch.isFrameBuffer = false) := ⟨⟨_, rfl, rfl⟩, ⟨_, rfl, rfl⟩⟩

/-- Two states that differ in GCLK's phase, in SDO, in the counter and in the `Gclk` events of the trace. -/
theorem witness_StepsIgnoreTheEnvironment :
    SameButGclk running
      { running with
        line := { running.line with gclk := true, sdo := true }, env := 7, trace := running.trace ++ [.gclk true] } :=
  ⟨rfl, rfl⟩

/-- Two uninitialised states that differ in the stored bits of undriven lines and of the configuration. -/
theorem witness_StateWithoutValueIsNeverRead :
    State.reset.StatusInv ∧
    SameValues State.reset
      { State.reset with line := { State.reset.line with sdi := true, le := true }, cfgNdev := 5, cfgWidth := 3 } := by
  refine ⟨reset_status, fun l => ?_, fun c => ?_, rfl, rfl, rfl, rfl, rfl, rfl, rfl⟩
  · cases l <;> rfl
  · cases c <;> rfl

/-- For ShiftValueSendsMsbFirst, ShiftValueArithmeticLaws, LePulseIsOneWindow, ClearBodyShape and SendBodyBitOrder: idle
levels, and indices at their bounds. -/
theorem witness_bodies :
    Build.default.wellFormed = true ∧ Probe.start.dclk = false ∧ Probe.start.le = false ∧ (0 : Nat) < 1 ∧ (11 : Nat) < 12 ∧
    (4095 : Nat) ≤ 2 ^ 12 - 1 := by decide

theorem witness_SetUniformIgnoresTheFrameBuffer :
    running.build.wellFormed = true ∧ running.Running ∧ (0xABC : BitVec 16).toNat ≤ 2 ^ running.cfgWidth.toNat - 1 ∧
    (∀ d < running.cfgNdev.toNat, ∀ c < 16, running.build.fbAddr d c < running.build.cells ∧
      Memory.read (Memory.fill [] running.build 0xABC 0xABC 0xABC 0xABC) (running.build.fbAddr d c) = some 0xABC) ∧
    ∃ u, exec .sendFrame running = .next u ∧ commandTrace u.trace = commandTrace running.trace ++ [.fault .unwritten] :=
  ⟨build_wellFormed.1, running_is_running, by decide, by decide, ⟨_, rfl, rfl⟩⟩

theorem witness_FillThenSendEqualsSetUniform :
    running.build.wellFormed = true ∧ running.Running ∧ running.StatusInv ∧
    (0xFFF : BitVec 16).toNat ≤ 2 ^ running.cfgWidth.toNat - 1 :=
  ⟨build_wellFormed.1, running_is_running, running_status, by decide⟩

theorem witness_SendFrameTwiceTransmitsTheSame :
    framed.Running ∧ ∃ t, exec .sendFrame framed = .next t ∧ t.faulted = false := by
  refine ⟨running_is_running, _, rfl, ?_⟩
  rw [State.advance_faulted, State.play_faulted]
  rfl

theorem witness_CellAddressesNumberTheGrid :
    Build.default.wellFormed = true ∧ (1 : Nat) < Build.default.rows ∧ (1 : Nat) < Build.default.cols ∧ (3 : Nat) < 4 ∧
    15 < Build.default.rows * Build.default.cols * 4 ∧ Build.default.cellAddr 1 1 3 = 15 := by decide

/-- For ObserverIsZeroAfterClear, ObserverShowsTheFrame and ObserverOnRawCommands: a chain of one device of width 2 whose
bits are unknown, and values at MAXV. -/
theorem witness_observer :
    Build.default.wellFormed = true ∧ Probe.start.dclk = false ∧ Probe.start.le = false ∧ (1 : Nat) ≤ 1 ∧
    (Chain.powerUp Build.default 1 2).sr.length = 1 * 16 * 2 ∧
    (∀ d < 1, ∀ ch < 16, (fun _ _ => 3 : Nat → Nat → Nat) d ch < 2 ^ 2) ∧
    (0 : Nat) ≠ 1 ∧ (0 : Nat) ≠ 3 := by decide

/-- Frequencies as numbers, a step of f / 4 and a delay of 1000 / f. -/
theorem witness_PulseLevelsRiseAndFall :
    1 ≤ (fun f : Nat => f / 4) 4096 ∧ (1 : Nat) ≤ 4095 ∧ (4095 + 1024 - 1) / 1024 = 4 ∧
    (hostPulse (fun f : Nat => f / 4) (fun f => 1000 / f) 4095 4096).length = 3 * (2 * 4 + 1) := by decide

theorem witness_CheckerPhasesAreSwapped :
    (1 : Nat) < Build.default.rows ∧ (0 : Nat) < Build.default.cols := by decide

theorem witness_OffTransmitsAllZero : running.build.wellFormed = true ∧ running.Running ∧ running.StatusInv :=
  ⟨build_wellFormed.1, running_is_running, running_status⟩

end Sys2Proof.Tests
end

/-! Proofs for the statements about the state (10_state.md): what holds after reset, what no step undoes, which commands
write cells, the status invariant, and that what has no value is never read. -/

namespace Sys2Proof.Machine

-- After reset (R35)

@[simp] theorem powerOn_initDone (b : Build) (p : List Word) : (State.powerOn b p).initDone = false := by
  simp [State.initDone, State.powerOn]
@[simp] theorem powerOn_faulted (b : Build) (p : List Word) : (State.powerOn b p).faulted = false := by
  simp [State.faulted, State.powerOn]
@[simp] theorem powerOn_gclkEn (b : Build) (p : List Word) : (State.powerOn b p).gclkEn = false := by
  simp [State.gclkEn, State.powerOn]

theorem powerOn_statusInv (b : Build) (p : List Word) : (State.powerOn b p).StatusInv :=
  ⟨by simp, fun _ => ⟨rfl, powerOn_gclkEn b p⟩, fun _ => ⟨rfl, rfl⟩, by simp⟩

theorem powerOn_memoryInv (b : Build) (p : List Word) : (State.powerOn b p).MemoryInv :=
  ⟨List.Pairwise.nil, nofun⟩

theorem powerOn_pulseInv (b : Build) (p : List Word) : (State.powerOn b p).PulseInv :=
  ⟨rfl, rfl, nofun⟩

theorem powerOn_wireInv (b : Build) (p : List Word) : (State.powerOn b p).WireInv :=
  ⟨Wire.start b, rfl, rfl, rfl, le_rfl⟩

theorem powerOn_gclkInv (b : Build) (p : List Word) : (State.powerOn b p).GclkInv := by
  refine ⟨fun _ => rfl, by simp, fun before after h _ => ?_⟩
  rw [(List.append_eq_nil_iff.1 h.symm).1]
  rfl

theorem csr_cfgNdev_of_not_initDone {s : State} (h : s.initDone = false) : s.csr .cfgNdev = none := by
  simp [State.csr, h]

theorem csr_cfgWidth_of_not_initDone {s : State} (h : s.initDone = false) : s.csr .cfgWidth = none := by
  simp [State.csr, h]

/-- Settles O1: the reset event and `State.reset` both are `State.powerOn` but for the environment's counter. -/
theorem resetPutsEverythingAtItsResetValue : Obligations.ResetPutsEverythingAtItsResetValue := by
  unfold Obligations.ResetPutsEverythingAtItsResetValue
  intro s t hw ht
  obtain ⟨b, p, e, hnch, rfl⟩ : ∃ b p e, b.nch = 16 ∧ t = { State.powerOn b p with env := e } := by
    rcases ht with rfl | rfl
    · exact ⟨s.build, s.prog, s.env, (Build.wellFormed_values hw).1, rfl⟩
    · exact ⟨Build.default, [], 0, rfl, rfl⟩
  have hi := powerOn_initDone b p
  exact ⟨rfl, fun l => by cases l <;> rfl, rfl, csr_cfgNdev_of_not_initDone hi, congrArg some hnch,
    csr_cfgWidth_of_not_initDone hi, rfl, rfl, rfl, hi, powerOn_faulted b p, powerOn_gclkEn b p, fun _ => rfl, rfl⟩

/-- Settles O2: each invariant holds at power-on of any build; admission and the build are those of `State.reset`. -/
theorem resetStateMeetsEveryInvariant : Obligations.ResetStateMeetsEveryInvariant := by
  unfold Obligations.ResetStateMeetsEveryInvariant
  exact ⟨powerOn_statusInv _ _, powerOn_memoryInv _ _, powerOn_pulseInv _ _, powerOn_wireInv _ _, powerOn_gclkInv _ _,
    rfl, by decide, by decide⟩

-- The next states a command and a step can answer

theorem exec_next_cases {i : Instr} {s t : State} (h : exec i s = .next t) :
    t = s ∨ (∃ c, t = s.raise c i.firstWord) ∨ BodyCase i s t := by
  rcases exec_cases i s with ⟨-, hs⟩ | ⟨c, -, hs⟩ | ⟨u, -, hb, hs⟩ | ⟨a, -, -, -, -, hs⟩ <;> cases hs.symm.trans h
  · exact .inl rfl
  · exact .inr (.inl ⟨c, rfl⟩)
  · exact .inr (.inr hb)

theorem step_next_cases {s t : State} (h : step s = .next t) :
    t = s.environment ∨ (∃ c w0, t = s.environment.raise c w0) ∨ ∃ i, BodyCase i s.environment t := by
  rcases step_cases s with ⟨hs, -⟩ | ⟨c, w0, -, hs⟩ | ⟨i, rest, u, -, -, hb, hs⟩ | ⟨a, rest, -, -, -, -, hs⟩ |
    ⟨-, -, hs⟩ <;> cases hs.symm.trans h
  · exact .inl rfl
  · exact .inr (.inl ⟨c, w0, rfl⟩)
  · exact .inr (.inr ⟨i, hb⟩)

-- What a body keeps, beside `BodyCase.keeps`

theorem Action.perform_keeps_gclkEn (a : Action) {s : State} (h : s.gclkEn = true) : (a.perform s).gclkEn = true := by
  cases a with
  | config l d => exact h
  | drive l v => exact h
  | wait ns => exact h
  | gclkStart hz duty => exact State.gclkStart_gclkEn s hz duty

/-- No body stops the generator (R30). -/
theorem State.play_keeps_gclkEn (as : List Action) {s : State} (h : s.gclkEn = true) : (s.play as).gclkEn = true := by
  induction as generalizing s with
  | nil => exact h
  | cons a as ih => exact ih (a.perform_keeps_gclkEn h)

theorem BodyCase.keeps_gclkEn {i : Instr} {s t : State} (h : BodyCase i s t) (hg : s.gclkEn = true) :
    t.gclkEn = true := by
  cases h with
  | wire as => exact State.play_keeps_gclkEn as hg
  | configured ndev width =>
    simpa using State.play_keeps_gclkEn (initActions s.build ndev.toNat (width.setWidth 5).toNat)
      (s := s.setConfig ndev width) hg
  | stored m => exact hg

/-- Once INIT is done, INIT_DONE stays set and the configuration stays what it is (R27, R29, R30). -/
theorem BodyCase.keeps_configuration {i : Instr} {s t : State} (h : BodyCase i s t) (hi : s.initDone = true) :
    t.initDone = true ∧ t.cfgNdev = s.cfgNdev ∧ t.cfgWidth = s.cfgWidth := by
  cases h with
  | wire as => simp [hi]
  | configured ndev width _ hd => simp [hi] at hd
  | stored m => exact ⟨hi, rfl, rfl⟩

theorem words_eq_one_or_three (i : Instr) : i.words = 1 ∨ i.words = 3 := by
  cases i <;> simp [Instr.words]

/-- Settles O36, by what a step can answer. -/
theorem stepNeverUndoes : Obligations.StepNeverUndoes := by
  unfold Obligations.StepNeverUndoes
  intro s t h
  rcases step_next_cases h with rfl | ⟨c, w0, rfl⟩ | ⟨i, hb⟩
  · simp
  · simp
  · obtain ⟨hf, hprog, hbuild, -, -, htrace, hpc⟩ := hb.keeps
    refine ⟨fun hi => (hb.keeps_configuration hi).1, fun h' => hf.trans h', fun hg => hb.keeps_gclkEn hg,
      fun hi => (hb.keeps_configuration hi).2, hprog, hbuild, .inr ?_, .trans (by simp) htrace⟩
    exact (words_eq_one_or_three i).imp (fun hw => by simp [hpc, hw]) fun hw => by simp [hpc, hw]

/-- Settles O37: a body of the Bus Driver plays primitives, which write no cell, and a frame-buffer body only stores. -/
theorem onlyFrameBufferCommandsWriteCells : Obligations.OnlyFrameBufferCommandsWriteCells := by
  unfold Obligations.OnlyFrameBufferCommandsWriteCells
  intro s t i h
  rcases exec_next_cases h with rfl | ⟨c, rfl⟩ | hb
  · exact ⟨fun _ => ⟨rfl, rfl, .inl rfl⟩, fun _ _ => rfl⟩
  · exact ⟨fun _ => ⟨rfl, rfl, .inr ⟨c, rfl⟩⟩, fun _ _ => rfl⟩
  · cases hb with
    | wire as hwb hon hle hdclk hi hw hfb => exact ⟨by simp [hfb], fun _ a => by simp⟩
    | configured ndev width hi =>
      subst hi
      exact ⟨nofun, fun _ a => by simp⟩
    | stored m hfb => exact ⟨fun _ => ⟨rfl, rfl, .inl rfl⟩, by simp [hfb]⟩

-- Bringing the lines up (INIT's steps 2 and 3, R121)

/-- While the generator is off the environment moves SDO and its counter only (R221). -/
theorem State.environment_of_gclk_off {s : State} (h : s.gclkEn = false) :
    s.environment = { s with line := { s.line with sdo := Config.sdoLevel s.env }, env := s.env + 1 } := by
  simp [State.environment, State.gclkTicks, h, gclkLevel, gclkEvents]

/-- INIT's steps 2 and 3 (R121): the directions and the idle-low levels. -/
def bringUp : List Action :=
  [.config .sdi .out, .config .dclk .out, .config .gclk .out, .config .le .out, .config .sdo .input,
   .drive .sdi false, .drive .dclk false, .drive .gclk false, .drive .le false]

theorem initActions_eq (b : Build) (ndev width : Nat) :
    initActions b ndev width = bringUp ++ .gclkStart b.gclkHz b.gclkDutyPct :: clearBody b ndev width := rfl

/-- Bringing the lines up overwrites every direction and every level, whatever they were: with the generator off no
point between the primitives adds an event or moves GCLK. -/
theorem State.play_bringUp {s : State} (h : s.gclkEn = false) :
    s.play bringUp =
      { s with
        line := { sdi := false, dclk := false, gclk := false, le := false, sdo := Config.sdoLevel (s.env + 8) }
        dir := configuredDirs
        trace := s.trace ++ actionEvents bringUp
        env := s.env + 9 } := by
  have hs : s.status[2] = false := by simpa [State.gclkEn] using h
  simp [bringUp, Action.perform, State.environment, State.config, State.drive, State.emit, State.gclkTicks,
    State.gclkEn, hs, gclkLevel, gclkEvents, LineFile.set, configuredDirs, actionEvents, Action.event]

-- The status invariant

theorem code_ne_zero (c : Cause) : c.code ≠ 0 := by
  cases c <;> decide

/-- A width INIT admits fits the 5 bits of CFG_WIDTH (R29, R122). -/
theorem setWidth_of_configOk {b : Build} (hw : b.wellFormed = true) {ndev : Nat} {width : BitVec 8}
    (h : b.configOk ndev width.toNat = true) : (width.setWidth 5).toNat = width.toNat := by
  have hle : width.toNat ≤ 16 := by
    obtain ⟨-, -, hbits, -, -⟩ := Build.wellFormed_values hw
    simp only [Build.configOk, hbits, Bool.and_eq_true, decide_eq_true_eq] at h
    obtain ⟨⟨⟨-, -, hwidth⟩, -⟩, -⟩ := h
    exact hwidth
  rw [BitVec.toNat_setWidth, Nat.mod_eq_of_lt (by omega)]

/-- INIT's body sets the directions and starts the generator (R21, R121). -/
theorem State.play_initActions {s : State} (h : s.gclkEn = false) (b : Build) (ndev width : Nat) :
    (s.play (initActions b ndev width)).dir = configuredDirs ∧
      (s.play (initActions b ndev width)).gclkEn = true := by
  rw [initActions_eq, State.play_append, State.play_cons, State.play_bringUp h]
  refine ⟨(State.play_dir _ _ (not_config_of_onWire (onWire_clearBody b ndev width))).trans rfl, ?_⟩
  exact State.play_keeps_gclkEn _ (by simp [Action.perform])

theorem State.StatusInv.environment {s : State} (h : s.StatusInv) : s.environment.StatusInv := h

theorem State.StatusInv.raise {s : State} (h : s.StatusInv) (c : Cause) (w0 : Word) : (s.raise c w0).StatusInv := by
  obtain ⟨hinit, hfresh, -, -⟩ := h
  exact ⟨by simpa using hinit, by simpa using hfresh, by simp, fun _ => code_ne_zero c⟩

theorem BodyCase.statusInv {i : Instr} {s t : State} (h : BodyCase i s t) (hw : s.build.wellFormed = true)
    (hs : s.StatusInv) : t.StatusInv := by
  obtain ⟨hinit, hfresh, hok, hfault⟩ := hs
  obtain ⟨hf, -, -, hcause, hfinfo, -, -⟩ := h.keeps
  have hidle := h.idle fun hi => by
    obtain ⟨-, hdclk, hle, -, -⟩ := hinit hi
    exact ⟨hdclk, hle⟩
  refine ⟨fun hi => ?_, fun hi => ?_, by rwa [hf, hcause, hfinfo], by rwa [hf, hcause]⟩
  · suffices t.dir = configuredDirs ∧ t.gclkEn = true ∧ t.build.configOk t.cfgNdev.toNat t.cfgWidth.toNat = true from
      ⟨this.1, (hidle hi).1, (hidle hi).2, this.2⟩
    cases h with
    | wire as hwb hon hle hdclk hdone =>
      obtain ⟨hdir, -, -, hg, hc⟩ := hinit hdone
      exact ⟨(State.play_dir s as (not_config_of_onWire hon)).trans hdir, State.play_keeps_gclkEn as hg,
        by simpa using hc⟩
    | configured ndev width hins hd hc =>
      obtain ⟨hdir, hg⟩ := State.play_initActions (s := s.setConfig ndev width) (hfresh hd).2 s.build ndev.toNat
        (width.setWidth 5).toNat
      exact ⟨hdir, by simpa using hg, by simpa [setWidth_of_configOk hw hc] using hc⟩
    | stored m =>
      obtain ⟨hdir, -, -, hg, hc⟩ := hinit hi
      exact ⟨hdir, hg, hc⟩
  · cases h with
    | wire as hwb hon hle hdclk hdone => simp [hdone] at hi
    | configured ndev width => simp at hi
    | stored m => exact hfresh hi

/-- Settles O30, by what a step can answer. -/
theorem stepKeepsTheStatusInvariant : Obligations.StepKeepsTheStatusInvariant := by
  unfold Obligations.StepKeepsTheStatusInvariant
  intro s t hw hinv h
  rcases step_next_cases h with rfl | ⟨c, w0, rfl⟩ | ⟨i, hb⟩
  · exact hinv.environment
  · exact hinv.environment.raise c w0
  · exact hb.statusInv hw hinv.environment

-- What has no value (R35, U2, U3)

/-- The same state with other bits stored where R35 gives no value before INIT: line levels, CFG_NDEV and CFG_WIDTH. -/
def State.withUnset (s : State) (l : LineFile Level) (ndev : BitVec 16) (width : BitVec 5) : State :=
  { s with line := l, cfgNdev := ndev, cfgWidth := width }

theorem SameValues.refl (s : State) : SameValues s s :=
  ⟨fun _ => rfl, fun _ => rfl, rfl, rfl, rfl, rfl, rfl, rfl, rfl⟩

/-- Before INIT the accessors show none of the bits that `State.withUnset` replaces. -/
theorem sameValues_withUnset {s : State} (hdir : s.dir = resetDirs) (hi : s.initDone = false) (l : LineFile Level)
    (ndev : BitVec 16) (width : BitVec 5) : SameValues s (s.withUnset l ndev width) := by
  have hi' : (s.withUnset l ndev width).initDone = false := hi
  refine ⟨fun ln => ?_, fun c => ?_, rfl, rfl, rfl, rfl, rfl, rfl, rfl⟩
  · cases ln <;> simp [State.pin, State.withUnset, hdir, resetDirs, LineFile.get]
  · cases c with
    | cfgNdev => rw [csr_cfgNdev_of_not_initDone hi, csr_cfgNdev_of_not_initDone hi']
    | cfgWidth => rw [csr_cfgWidth_of_not_initDone hi, csr_cfgWidth_of_not_initDone hi']
    | cfgNch => rfl
    | status => rfl
    | cause => rfl
    | finfo => rfl

/-- States with the same values differ at most in those bits. -/
theorem SameValues.eq_withUnset {s t : State} (h : SameValues s t) : t = s.withUnset t.line t.cfgNdev t.cfgWidth := by
  obtain ⟨-, hcsr, hdir, hpc, hprog, hfb, htrace, henv, hbuild⟩ := h
  have hstatus : t.status = s.status := BitVec.eq_of_toNat_eq (Option.some.inj (hcsr .status))
  have hcause : t.cause = s.cause := BitVec.eq_of_toNat_eq (Option.some.inj (hcsr .cause))
  have hfinfo : t.finfo = s.finfo := BitVec.eq_of_toNat_eq (Option.some.inj (hcsr .finfo))
  simp only [State.withUnset, ← hdir, ← hpc, ← hprog, ← hfb, ← htrace, ← henv, ← hbuild, ← hstatus, ← hcause, ← hfinfo]

theorem LineFile.eq_of_get {α : Type} {f g : LineFile α} (h : ∀ l, f.get l = g.get l) : f = g := by
  cases f
  cases g
  exact (LineFile.mk.injEq ..).mpr ⟨h .sdi, h .dclk, h .gclk, h .le, h .sdo⟩

/-- Once INIT is done everything has a value. -/
theorem SameValues.eq_of_initDone {s t : State} (h : SameValues s t) (hi : s.initDone = true)
    (hdir : s.dir = configuredDirs) : t = s := by
  have ht := h.eq_withUnset
  obtain ⟨hpin, hcsr, htdir, -⟩ := h
  have hti : t.initDone = true := by rw [ht]; exact hi
  have hl : t.line = s.line := LineFile.eq_of_get fun ln => by
    have := hpin ln
    cases ln <;> simpa [State.pin, htdir, hdir, configuredDirs, LineFile.get] using this
  have hn : t.cfgNdev = s.cfgNdev :=
    BitVec.eq_of_toNat_eq (by simpa [State.csr, hi, hti] using hcsr .cfgNdev)
  have hwd : t.cfgWidth = s.cfgWidth :=
    BitVec.eq_of_toNat_eq (by simpa [State.csr, hi, hti] using hcsr .cfgWidth)
  rw [ht, hl, hn, hwd]
  rfl

/-- Before INIT every Bus Driver command but INIT itself raises CV_UNINIT (R206 check 2). -/
theorem exec_busDriver_uninit {i : Instr} {s : State} (hf : s.faulted = false) (hi : s.initDone = false)
    (hb : i.isFrameBuffer = false) (hinit : ∀ ndev width, i ≠ .init ndev width) :
    exec i s = .next (s.raise .uninit i.firstWord) := by
  have hv := needsInit_fresh hi
  cases i with
  | init ndev width => exact absurd rfl (hinit ndev width)
  | shiftBit bit => exact (exec_shiftBit bit s).trans (accept_violation hf hv)
  | shiftValue value width => exact (exec_shiftValue value width s).trans (accept_violation hf hv)
  | latch => exact (exec_latch s).trans (accept_violation hf hv)
  | commit => exact (exec_commit s).trans (accept_violation hf hv)
  | clear => exact (exec_clear s).trans (accept_violation hf hv)
  | sendFrame => exact exec_sendFrame_fresh hf hi
  | setUniform value => exact (exec_setUniform value s).trans (accept_violation hf (by rw [hv]; rfl))
  | fbSetPixel row col r g b w => cases hb
  | fbFill r g b w => cases hb
  | fbClear => cases hb

section Unset

variable {s : State} (l : LineFile Level) (ndev : BitVec 16) (width : BitVec 5)

/-- The acceptance of a command whose checks read no unset bit and whose body shows none. -/
theorem accept_withUnset (hdir : s.dir = resetDirs) (hi : s.initDone = false) (w0 : Word) (v : Option Cause)
    (body : State → State) (hb : SameValues (body s) (body (s.withUnset l ndev width))) :
    OutcomesAgree SameValues (accept s w0 v body) (accept (s.withUnset l ndev width) w0 v body) := by
  rcases Bool.eq_false_or_eq_true s.faulted with hf | hf
  · rw [accept_halted hf, accept_halted (s := s.withUnset l ndev width) hf]
    exact sameValues_withUnset hdir hi l ndev width
  · cases v with
    | some c =>
      rw [accept_violation hf rfl, accept_violation (s := s.withUnset l ndev width) hf rfl]
      exact sameValues_withUnset (s := s.raise c w0) hdir (by simpa using hi) l ndev width
    | none =>
      rw [accept_pass hf rfl, accept_pass (s := s.withUnset l ndev width) hf rfl]
      exact hb

/-- INIT overwrites every unset bit (R121). -/
theorem setConfig_play_initActions_withUnset (hg : s.gclkEn = false) (nd : BitVec 16) (wd : BitVec 8) (b : Build)
    (n w : Nat) :
    ((s.withUnset l ndev width).setConfig nd wd).play (initActions b n w) =
      (s.setConfig nd wd).play (initActions b n w) := by
  rw [initActions_eq, State.play_append, State.play_append, State.play_bringUp (s := s.setConfig nd wd) hg,
    State.play_bringUp (s := (s.withUnset l ndev width).setConfig nd wd) hg]
  rfl

theorem exec_withUnset (hdir : s.dir = resetDirs) (hi : s.initDone = false) (hg : s.gclkEn = false) (i : Instr) :
    OutcomesAgree SameValues (exec i s) (exec i (s.withUnset l ndev width)) := by
  have same (u : State) (hu : u.dir = resetDirs) (hui : u.initDone = false) :=
    sameValues_withUnset hu hui l ndev width
  have uninit (hb : i.isFrameBuffer = false) (hinit : ∀ ndev width, i ≠ .init ndev width) :
      OutcomesAgree SameValues (exec i s) (exec i (s.withUnset l ndev width)) := by
    rcases Bool.eq_false_or_eq_true s.faulted with hf | hf
    · rw [exec_halted i s hf, exec_halted i (s.withUnset l ndev width) hf]
      exact same s hdir hi
    · rw [exec_busDriver_uninit hf hi hb hinit,
        exec_busDriver_uninit (s := s.withUnset l ndev width) hf hi hb hinit]
      exact same (s.raise .uninit i.firstWord) hdir (by simpa using hi)
  cases i with
  | init nd wd =>
    rw [exec_init, exec_init]
    refine accept_withUnset l ndev width hdir hi _ (s.initCheck nd.toNat wd.toNat) _ ?_
    rw [setConfig_play_initActions_withUnset l ndev width hg]
    exact SameValues.refl _
  | fbSetPixel row col r g b w =>
    rw [exec_fbSetPixel, exec_fbSetPixel]
    refine accept_withUnset l ndev width hdir hi _ (s.indexCheck row.toNat col.toNat) _ ?_
    exact same _ hdir hi
  | fbFill r g b w =>
    rw [exec_fbFill, exec_fbFill]
    refine accept_withUnset l ndev width hdir hi _ none _ ?_
    exact same _ hdir hi
  | fbClear =>
    rw [exec_fbClear, exec_fbClear]
    refine accept_withUnset l ndev width hdir hi _ none _ ?_
    exact same _ hdir hi
  | shiftBit bit => exact uninit rfl nofun
  | shiftValue value width => exact uninit rfl nofun
  | latch => exact uninit rfl nofun
  | commit => exact uninit rfl nofun
  | clear => exact uninit rfl nofun
  | sendFrame => exact uninit rfl nofun
  | setUniform value => exact uninit rfl nofun

/-- The environment's move reads none of the unset bits either: the generator is off. -/
theorem environment_withUnset (hg : s.gclkEn = false) :
    (s.withUnset l ndev width).environment =
      s.environment.withUnset { l with sdo := Config.sdoLevel s.env } ndev width := by
  rw [State.environment_of_gclk_off hg, State.environment_of_gclk_off (s := s.withUnset l ndev width) hg]
  rfl

theorem step_withUnset (hdir : s.dir = resetDirs) (hi : s.initDone = false) (hg : s.gclkEn = false) :
    OutcomesAgree SameValues (step s) (step (s.withUnset l ndev width)) := by
  have same := sameValues_withUnset (s := s.environment) hdir hi { l with sdo := Config.sdoLevel s.env } ndev width
  rcases Bool.eq_false_or_eq_true s.faulted with hf | hf
  · rw [step_halted hf, step_halted (s := s.withUnset l ndev width) hf, environment_withUnset l ndev width hg]
    exact same
  · rw [step_running hf, step_running (s := s.withUnset l ndev width) hf, environment_withUnset l ndev width hg]
    have hfetch (l' : LineFile Level) : (s.environment.withUnset l' ndev width).fetch = s.environment.fetch := rfl
    rw [hfetch]
    cases s.environment.fetch with
    | none => exact same
    | illegal w0 => exact accept_withUnset (s := s.environment) _ ndev width hdir hi w0 (some .illegal) id same
    | cutShort => rfl
    | command i rest => exact exec_withUnset (s := s.environment) _ ndev width hdir hi hg i

end Unset

theorem OutcomesAgree.refl {r : State → State → Prop} (hr : ∀ s, r s s) (x : Host.Outcome State Fault Refusal) :
    OutcomesAgree r x x := by
  cases x with
  | next s => exact hr s
  | fault a => rfl
  | refused a => rfl

/-- Settles O39: after INIT the two states are equal, and before it no step reads an unset bit. -/
theorem stateWithoutValueIsNeverRead : Obligations.StateWithoutValueIsNeverRead := by
  unfold Obligations.StateWithoutValueIsNeverRead
  intro s t hs _ h
  obtain ⟨hinit, hfresh, -, -⟩ := hs
  rcases Bool.eq_false_or_eq_true s.initDone with hi | hi
  · rw [h.eq_of_initDone hi (hinit hi).1]
    exact .refl SameValues.refl _
  · obtain ⟨hdir, hg⟩ := hfresh hi
    rw [h.eq_withUnset]
    exact step_withUnset _ _ _ hdir hi hg

end Sys2Proof.Machine

/-! Proofs for the statements about delivery and memory (20_memory.md): admission and the step, the frame buffer's cells,
and the environment that runs beside the controller: what it cannot influence, the order of its events, its fairness. -/

namespace Sys2Proof

-- Decoding what the encoder wrote (R98, R103)

theorem extract_append_mid {k n m : Nat} (a : BitVec k) (b : BitVec n) (c : BitVec m) :
    (a ++ b ++ c).extractLsb' m n = b := by
  apply BitVec.eq_of_getLsbD_eq
  intro i hi
  rw [BitVec.getLsbD_extractLsb', getLsbD_append_hi _ _ _ (by omega), Nat.add_sub_cancel_left,
    getLsbD_append_lo _ _ _ hi]
  simp [hi]

theorem fieldRow_pixel (op : BitVec 8) (row col : BitVec 12) : fieldRow (op ++ row ++ col) = row :=
  extract_append_mid op row col

theorem fieldLow24But0_bit (op : BitVec 8) (z : BitVec 23) (b : BitVec 1) : fieldLow24But0 (op ++ z ++ b) = z :=
  extract_append_mid op z b

/-- The decoder reads a command back from its words, whatever follows them (R98). -/
theorem decode_encode_append (i : Instr) (rest : List Word) : decode (encode i ++ rest) = .command i rest := by
  show decodeWord i.firstWord (i.trailingWords ++ rest) = .command i rest
  cases i with
  | init ndev width =>
    have hop : opcodeOf (Instr.init ndev width).firstWord = 0x01#8 := opcodeOf_wide _ _ _
    have hwidth : fieldWidth (Instr.init ndev width).firstWord = width := fieldWidth_wide _ _ _
    have hndev : loHalf (Instr.init ndev width).firstWord = ndev := loHalf_wide _ _ _
    simp [decodeWord, Instr.trailingWords, hop, hwidth, hndev]
  | shiftBit bit =>
    have hop : opcodeOf (Instr.shiftBit bit).firstWord = 0x02#8 := opcodeOf_bit _ _ _
    have hz : fieldLow24But0 (Instr.shiftBit bit).firstWord = 0#23 := fieldLow24But0_bit _ _ _
    have hbit : (Instr.shiftBit bit).firstWord.extractLsb' 0 1 = bit := extract_append_lo _ _
    simp [decodeWord, Instr.trailingWords, hop, hz, hbit]
  | shiftValue value width =>
    have hop : opcodeOf (Instr.shiftValue value width).firstWord = 0x03#8 := opcodeOf_wide _ _ _
    have hwidth : fieldWidth (Instr.shiftValue value width).firstWord = width := fieldWidth_wide _ _ _
    have hvalue : loHalf (Instr.shiftValue value width).firstWord = value := loHalf_wide _ _ _
    simp [decodeWord, Instr.trailingWords, hop, hwidth, hvalue]
  | setUniform value =>
    have hop : opcodeOf (Instr.setUniform value).firstWord = 0x08#8 := opcodeOf_wide _ _ _
    have hz : fieldWidth (Instr.setUniform value).firstWord = 0#8 := fieldWidth_wide _ _ _
    have hvalue : loHalf (Instr.setUniform value).firstWord = value := loHalf_wide _ _ _
    simp [decodeWord, Instr.trailingWords, hop, hz, hvalue]
  | fbSetPixel row col r g b w =>
    have hop : opcodeOf (Instr.fbSetPixel row col r g b w).firstWord = 0x10#8 := opcodeOf_pixel _ _ _
    have hrow : fieldRow (Instr.fbSetPixel row col r g b w).firstWord = row := fieldRow_pixel _ _ _
    have hcol : fieldCol (Instr.fbSetPixel row col r g b w).firstWord = col := fieldCol_pixel _ _ _
    simp [decodeWord, Instr.trailingWords, hop, hrow, hcol, hiHalf_pair, loHalf_pair]
  | fbFill r g b w =>
    have hop : opcodeOf (Instr.fbFill r g b w).firstWord = 0x11#8 := opcodeOf_pair _ _
    have hz : fieldLow24 (Instr.fbFill r g b w).firstWord = 0#24 := fieldLow24_pair _ _
    simp [decodeWord, Instr.trailingWords, hop, hz, hiHalf_pair, loHalf_pair]
  | latch => rfl
  | commit => rfl
  | clear => rfl
  | sendFrame => rfl
  | fbClear => rfl

/-- A decoded command takes its length off the words (R91). -/
theorem rest_of_decode_command {ws rest : List Word} {i : Instr} (h : decode ws = .command i rest) :
    i.words ≤ ws.length ∧ rest = ws.drop i.words := by
  cases ws with
  | nil => cases h
  | cons w0 ws =>
    have hc := decodeWord_cases w0 ws
    rw [show decodeWord w0 ws = .command i rest from h] at hc
    cases hc with
    | fbSetPixel w1 w2 rest hop hws => subst hws; simp [Instr.words]
    | fbFill w1 w2 rest hop hz hws => subst hws; simp [Instr.words]
    | _ => simp [Instr.words]

theorem length_rest_lt {ws rest : List Word} {i : Instr} (h : decode ws = .command i rest) :
    rest.length < ws.length := by
  obtain ⟨hle, rfl⟩ := rest_of_decode_command h
  rw [List.length_drop]
  rcases Machine.words_eq_one_or_three i with hw | hw <;> omega

-- The walk of admission (R76)

/-- Fuel for every word is enough: more of it changes nothing. -/
theorem admittedFuel_eq {n m : Nat} {ws : List Word} (hn : ws.length ≤ n) (hm : ws.length ≤ m) :
    admittedFuel n ws = admittedFuel m ws := by
  induction n generalizing m ws with
  | zero =>
    rw [List.eq_nil_of_length_eq_zero (Nat.le_zero.1 hn)]
    cases m <;> rfl
  | succ n ih =>
    cases m with
    | zero => rw [List.eq_nil_of_length_eq_zero (Nat.le_zero.1 hm)]; rfl
    | succ m =>
      cases hd : decode ws with
      | command i rest =>
        have := length_rest_lt hd
        simpa only [admittedFuel, hd] using ih (by omega) (by omega)
      | _ => simp only [admittedFuel, hd]

theorem admitted_of_cutShort {ws : List Word} (h : decode ws = .cutShort) : admitted ws = false := by
  cases ws with
  | nil => cases h
  | cons w ws => simp [admitted, admittedFuel, h]

theorem admitted_of_illegal {ws : List Word} {w0 : Word} (h : decode ws = .illegal w0) : admitted ws = true := by
  cases ws with
  | nil => cases h
  | cons w ws => simp [admitted, admittedFuel, h]

theorem admitted_of_command {ws rest : List Word} {i : Instr} (h : decode ws = .command i rest) :
    admitted ws = admitted rest := by
  cases ws with
  | nil => cases h
  | cons w ws =>
    have hlt : rest.length < ws.length + 1 := length_rest_lt h
    simpa only [admitted, List.length_cons, admittedFuel, h] using admittedFuel_eq (Nat.le_of_lt_succ hlt) le_rfl

/-- The walk passes over whole commands. -/
theorem admitted_assemble_append (is : List Instr) (ws : List Word) :
    admitted (assemble is ++ ws) = admitted ws := by
  induction is with
  | nil => rfl
  | cons i is ih =>
    have hd : decode (assemble (i :: is) ++ ws) = .command i (assemble is ++ ws) := by
      simpa [assemble] using decode_encode_append i (assemble is ++ ws)
    exact (admitted_of_command hd).trans ih

namespace Machine

theorem State.load_of_admitted {p : List Word} (s : State) (h : admitted p = true) :
    s.load p = .next { s with prog := p } := by simp [State.load, h]

theorem State.load_of_not_admitted {p : List Word} (s : State) (h : admitted p = false) :
    s.load p = .refused .programCutShort := by simp [State.load, h]

/-- Settles O11: the walk of admission passes over whole commands and is decided by what stands behind them. -/
theorem cutShortProgramsAreRefused : Obligations.CutShortProgramsAreRefused := by
  unfold Obligations.CutShortProgramsAreRefused
  refine ⟨fun s is ws h => ?_, fun s is => ?_, fun s is ws w0 h => ?_, fun s hf h => ?_⟩
  · exact s.load_of_not_admitted ((admitted_assemble_append is ws).trans (admitted_of_cutShort h))
  · have := admitted_assemble_append is []
    rw [List.append_nil] at this
    exact s.load_of_admitted this
  · exact s.load_of_admitted ((admitted_assemble_append is ws).trans (admitted_of_illegal h))
  · rw [step_running hf, show s.environment.fetch = .cutShort from h]

-- Agreement but for the environment (R72)

theorem SameButGclk.symm {s t : State} (h : SameButGclk s t) : SameButGclk t s := by
  obtain ⟨ht, hc⟩ := h
  exact ⟨by rw [ht], hc.symm⟩

theorem SameButGclk.trans {s t u : State} (h : SameButGclk s t) (h' : SameButGclk t u) : SameButGclk s u := by
  obtain ⟨ht, hc⟩ := h
  obtain ⟨hu, hc'⟩ := h'
  exact ⟨by rw [hu, ht], hc'.trans hc⟩

/-- The environment's move touches nothing but what `SameButGclk` leaves open (R23, R74). -/
theorem sameButGclk_environment (s : State) : SameButGclk s s.environment := ⟨rfl, commandTrace_environment s⟩

theorem SameButGclk.environment {s t : State} (h : SameButGclk s t) : SameButGclk s.environment t.environment :=
  ((sameButGclk_environment s).symm.trans h).trans (sameButGclk_environment t)

theorem SameButGclk.perform {s t : State} (h : SameButGclk s t) (a : Action) :
    SameButGclk (a.perform s) (a.perform t) := by
  obtain ⟨ht, hc⟩ := h
  refine ⟨?_, by simp [hc]⟩
  rw [ht]
  cases a with
  | config l d => rfl
  | drive l v => cases l <;> rfl
  | wait ns => rfl
  | gclkStart hz duty => rfl

theorem SameButGclk.play {s t : State} (h : SameButGclk s t) (as : List Action) :
    SameButGclk (s.play as) (t.play as) := by
  induction as generalizing s t with
  | nil => exact h
  | cons a as ih => exact ih (h.perform a).environment

theorem SameButGclk.raise {s t : State} (h : SameButGclk s t) (c : Cause) (w0 : Word) :
    SameButGclk (s.raise c w0) (t.raise c w0) := by
  obtain ⟨ht, hc⟩ := h
  exact ⟨by rw [ht]; rfl, by simp [hc]⟩

theorem SameButGclk.advance {s t : State} (h : SameButGclk s t) (len : Nat) :
    SameButGclk (s.advance len) (t.advance len) := by
  obtain ⟨ht, hc⟩ := h
  exact ⟨by rw [ht]; rfl, hc⟩

theorem SameButGclk.faulted_eq {s t : State} (h : SameButGclk s t) : t.faulted = s.faulted := by
  obtain ⟨ht, -⟩ := h
  rw [ht]
  rfl

theorem SameButGclk.fetch_eq {s t : State} (h : SameButGclk s t) : t.fetch = s.fetch := by
  obtain ⟨ht, -⟩ := h
  rw [ht]
  rfl

/-- What the checks and the bodies of the commands read is the same in both (R72). -/
theorem SameButGclk.reads {s t : State} (h : SameButGclk s t) :
    t.build = s.build ∧ t.cfgNdev = s.cfgNdev ∧ t.cfgWidth = s.cfgWidth ∧ t.initDone = s.initDone ∧ t.fb = s.fb ∧
      t.sendScan = s.sendScan := by
  obtain ⟨ht, -⟩ := h
  rw [ht]
  exact ⟨rfl, rfl, rfl, rfl, rfl, rfl⟩

/-- `accept` on two states that agree but for the environment, checked alike, with bodies that agree. -/
theorem SameButGclk.accept {s t : State} (h : SameButGclk s t) (w0 : Word) {v v' : Option Cause} (hv : v' = v)
    {body : State → State} (hb : SameButGclk (body s) (body t)) :
    OutcomesAgree SameButGclk (accept s w0 v body) (accept t w0 v' body) := by
  subst hv
  have hft := h.faulted_eq
  rcases accept_cases s w0 v' body with ⟨hf, hs⟩ | ⟨c, hf, hc, hs⟩ | ⟨hf, hc, hs⟩
  · rw [hs, accept_halted (hft.trans hf)]
    exact h
  · rw [hs, accept_violation (hft.trans hf) hc]
    exact h.raise c w0
  · rw [hs, accept_pass (hft.trans hf) hc]
    exact hb

theorem SameButGclk.withFb {s t : State} (h : SameButGclk s t) {m m' : Memory} (hm : m' = m) :
    SameButGclk { s with fb := m } { t with fb := m' } := by
  subst hm
  obtain ⟨ht, hc⟩ := h
  exact ⟨by rw [ht], hc⟩

theorem SameButGclk.setConfig {s t : State} (h : SameButGclk s t) (ndev : BitVec 16) (width : BitVec 8) :
    SameButGclk (s.setConfig ndev width) (t.setConfig ndev width) := by
  obtain ⟨ht, hc⟩ := h
  exact ⟨by rw [ht]; rfl, hc⟩

theorem SameButGclk.setInitDone {s t : State} (h : SameButGclk s t) : SameButGclk s.setInitDone t.setInitDone := by
  obtain ⟨ht, hc⟩ := h
  exact ⟨by rw [ht]; rfl, hc⟩

/-- No command depends on the environment: its checks read none of it and its body keeps the agreement (R72). -/
theorem SameButGclk.exec {s t : State} (h : SameButGclk s t) (i : Instr) :
    OutcomesAgree SameButGclk (exec i s) (exec i t) := by
  obtain ⟨hbuild, hndev, hwidth, hinit, hfb, hscan⟩ := h.reads
  have hfault := h.faulted_eq
  have played (as : List Action) : SameButGclk ((s.play as).advance 1) ((t.play as).advance 1) :=
    (h.play as).advance 1
  have hneeds : t.needsInit = s.needsInit := by simp only [State.needsInit, hinit]
  cases i with
  | init ndev width =>
    rw [exec_init, exec_init]
    refine h.accept _ (by simp only [State.initCheck, hinit, hbuild]) ?_
    rw [hbuild]
    exact (((h.setConfig ndev width).play _).setInitDone).advance 1
  | shiftBit bit =>
    rw [exec_shiftBit, exec_shiftBit]
    exact h.accept _ hneeds (hbuild ▸ played _)
  | shiftValue value width =>
    rw [exec_shiftValue, exec_shiftValue]
    exact h.accept _ hneeds (hbuild ▸ played _)
  | latch =>
    rw [exec_latch, exec_latch]
    exact h.accept _ hneeds (hbuild ▸ played _)
  | commit =>
    rw [exec_commit, exec_commit]
    exact h.accept _ hneeds (hbuild ▸ played _)
  | clear =>
    rw [exec_clear, exec_clear]
    exact h.accept _ hneeds (by rw [hbuild, hndev, hwidth]; exact played _)
  | sendFrame =>
    rcases Bool.eq_false_or_eq_true s.faulted with hf | hf
    · rw [exec_halted _ s hf, exec_halted _ t (hfault.trans hf)]
      exact h
    rcases Bool.eq_false_or_eq_true s.initDone with hi | hi
    · rw [exec_sendFrame hf hi, exec_sendFrame (hfault.trans hf) (hinit.trans hi), hscan, hbuild, hwidth]
      cases s.sendScan with
      | values vs => exact played _
      | violation c => exact h.raise c _
      | noCell a => rfl
    · rw [exec_sendFrame_fresh hf hi, exec_sendFrame_fresh (hfault.trans hf) (hinit.trans hi)]
      exact h.raise .uninit _
  | setUniform value =>
    rw [exec_setUniform, exec_setUniform]
    refine h.accept _ (by simp only [hneeds, State.uniformCheck, hwidth]) ?_
    rw [hbuild, hndev, hwidth]
    exact played _
  | fbSetPixel row col r g b w =>
    rw [exec_fbSetPixel, exec_fbSetPixel]
    exact h.accept _ (by simp only [State.indexCheck, hbuild]) ((h.withFb (by rw [hbuild, hfb])).advance 3)
  | fbFill r g b w =>
    rw [exec_fbFill, exec_fbFill]
    exact h.accept _ rfl ((h.withFb (by rw [hbuild, hfb])).advance 3)
  | fbClear =>
    rw [exec_fbClear, exec_fbClear]
    exact h.accept _ rfl ((h.withFb (by rw [hbuild, hfb])).advance 1)

/-- Settles O38: the environment's moves keep the agreement, and so does the command both states fetch. -/
theorem stepsIgnoreTheEnvironment : Obligations.StepsIgnoreTheEnvironment := by
  unfold Obligations.StepsIgnoreTheEnvironment
  intro s t h
  have he := h.environment
  rcases Bool.eq_false_or_eq_true s.faulted with hf | hf
  · rw [step_halted hf, step_halted (h.faulted_eq.trans hf)]
    exact he
  · rw [step_running hf, step_running (h.faulted_eq.trans hf), he.fetch_eq]
    cases s.environment.fetch with
    | none => exact he
    | illegal w0 => exact he.accept w0 rfl he
    | cutShort => rfl
    | command i rest => exact he.exec i

/-- Settles O8: a halted controller is left as it is by both. -/
theorem stepRunsTheCommandAtPc : Obligations.StepRunsTheCommandAtPc := by
  unfold Obligations.StepRunsTheCommandAtPc
  intro s i rest h
  refine ⟨?_, sameButGclk_environment s⟩
  rcases Bool.eq_false_or_eq_true s.faulted with hf | hf
  · rw [step_halted hf, exec_halted i s.environment hf]
  · rw [step_running hf, show s.environment.fetch = .command i rest from h]

/-- Settles O10: beyond the last word the decoder finds none. -/
theorem endedProgramWaitsForTheHost : Obligations.EndedProgramWaitsForTheHost := by
  unfold Obligations.EndedProgramWaitsForTheHost
  intro s h
  have hfetch : s.environment.fetch = .none := by
    show decode (s.prog.drop s.pc) = .none
    rw [List.drop_eq_nil_of_le h]
    rfl
  refine ⟨?_, sameButGclk_environment s⟩
  rcases Bool.eq_false_or_eq_true s.faulted with hf | hf
  · exact step_halted hf
  · rw [step_running hf, hfetch]

-- The order of the Gclk events (R74)

@[simp] theorem gclkTrace_nil : gclkTrace [] = [] := rfl

theorem gclkTrace_raise (s : State) (c : Cause) (w0 : Word) : gclkTrace (s.raise c w0).trace = gclkTrace s.trace := by
  simp [gclkTrace, Event.isGclk]

@[simp] theorem gclkTrace_actionEvents (as : List Action) : gclkTrace (actionEvents as) = [] := by
  induction as with
  | nil => rfl
  | cons a as ih => exact (gclkTrace_action a _).trans ih

theorem gclkByGenerator_of_eq {s t : State} (ht : gclkTrace t.trace = gclkTrace s.trace)
    (hl : t.line.gclk = s.line.gclk) : GclkByGenerator s t :=
  ⟨0, by simp [ht, gclkEvents], hl, fun _ => rfl⟩

theorem gclkByGenerator_environment (s : State) : GclkByGenerator s s.environment :=
  ⟨s.gclkTicks, by simp, rfl, fun h => by simp [State.gclkTicks, h]⟩

/-- The order of the `Gclk` events survives whatever leaves GCLK to its generator and only extends the trace. -/
theorem State.GclkInv.of_generator {s t : State} (h : s.GclkInv) (hen : t.gclkEn = s.gclkEn)
    (hb : t.build = s.build) (hp : s.trace <+: t.trace) (hg : GclkByGenerator s t) : t.GclkInv := by
  obtain ⟨hoff, hon, hstart⟩ := h
  obtain ⟨k, htrace, hlevel, hk⟩ := hg
  have silent (hd : s.gclkEn = false) : gclkTrace t.trace = [] := by
    rw [htrace, hoff hd, hk hd]
    rfl
  refine ⟨fun hd => silent (hen ▸ hd), fun he => ?_, fun before after hsplit hn => ?_⟩
  · obtain ⟨hmem, n, hn, hl⟩ := hon (hen ▸ he)
    refine ⟨hb ▸ hp.subset hmem, n + k, ?_, ?_⟩
    · rw [htrace, hn, hl, gclkEvents_add]
    · rw [hlevel, hl, gclkLevel_add]
  · have hpre : before <+: t.trace := ⟨after, hsplit.symm⟩
    rcases Bool.eq_false_or_eq_true s.gclkEn with he | hd
    · obtain ⟨hmem, -⟩ := hon he
      rw [hb] at hn
      rcases List.prefix_or_prefix_of_prefix hpre hp with ⟨rest, hrest⟩ | hlong
      · exact hstart before rest hrest.symm hn
      · exact absurd (hlong.subset hmem) hn
    · exact List.prefix_nil.1 (silent hd ▸ hpre.filter _)

/-- The clock just started: GCLK low and no `Gclk` event yet (R123). -/
theorem gclkInv_of_silent {s : State} (hl : s.line.gclk = false) (hs : gclkTrace s.trace = [])
    (hm : .gclkOn s.build.gclkHz s.build.gclkDutyPct ∈ s.trace) : s.GclkInv := by
  refine ⟨fun _ => hs, fun _ => ⟨hm, 0, hs, hl⟩, fun before after h _ => ?_⟩
  rw [h, gclkTrace_append] at hs
  exact (List.append_eq_nil_iff.1 hs).1

theorem State.GclkInv.environment {s : State} (h : s.GclkInv) : s.environment.GclkInv :=
  h.of_generator rfl rfl (by simp) (gclkByGenerator_environment s)

theorem State.GclkInv.play {s : State} (h : s.GclkInv) {as : List Action} (hon : as.all Action.onWire = true) :
    (s.play as).GclkInv := by
  obtain ⟨-, hstatus, hg⟩ := s.play_onWire as hon
  exact h.of_generator (by simp only [State.gclkEn, hstatus]) (by simp) (s.play_trace_grows as) hg

/-- INIT's body starts the clock with GCLK low, and only then do `Gclk` events follow (R121, R123). -/
theorem State.GclkInv.play_initActions {s : State} (h : s.GclkInv) (hen : s.gclkEn = false) (ndev width : Nat) :
    (s.play (initActions s.build ndev width)).GclkInv := by
  obtain ⟨hoff, -, -⟩ := h
  rw [initActions_eq, State.play_append, State.play_cons, State.play_bringUp hen]
  refine State.GclkInv.play (State.GclkInv.environment (gclkInv_of_silent rfl ?_ ?_)) (onWire_clearBody _ _ _)
  · simp [hoff hen]
  · simp [Action.event]

theorem BodyCase.gclkInv {i : Instr} {s t : State} (h : BodyCase i s t) (hs : s.StatusInv) (hg : s.GclkInv) :
    t.GclkInv := by
  cases h with
  | wire as hwb hon => exact hg.play hon
  | configured ndev width hi hd =>
    obtain ⟨-, hfresh, -, -⟩ := hs
    have hplay := State.GclkInv.play_initActions (s := s.setConfig ndev width) hg (hfresh hd).2 ndev.toNat
      (width.setWidth 5).toNat
    exact hplay.of_generator (by simp) rfl (List.prefix_refl _) (gclkByGenerator_of_eq rfl rfl)
  | stored m => exact hg

/-- Settles O34, by what a step can answer. -/
theorem stepKeepsTheClockOrder : Obligations.StepKeepsTheClockOrder := by
  unfold Obligations.StepKeepsTheClockOrder
  intro s t hs hg h
  rcases step_next_cases h with rfl | ⟨c, w0, rfl⟩ | ⟨i, hb⟩
  · exact hg.environment
  · exact hg.environment.of_generator (by simp) rfl (by simp)
      (gclkByGenerator_of_eq (gclkTrace_raise _ c w0) rfl)
  · exact hb.gclkInv hs.environment hg.environment

-- An admitted program runs on (R76)

/-- The scan meets no address outside the frame buffer when it is given none. -/
theorem scanCells_ne_noCell {b : Build} {as : List Nat} (h : ∀ a ∈ as, a < b.cells) (m : Memory) (maxv a : Nat) :
    scanCells b m maxv as ≠ .noCell a := by
  induction as with
  | nil => nofun
  | cons x as ih =>
    have hrest := ih fun y hy => h y (List.mem_cons_of_mem _ hy)
    rw [scanCells, if_pos (h x List.mem_cons_self)]
    cases m.read x with
    | none => nofun
    | some v =>
      by_cases hv : v > maxv
      · simp [hv]
      · cases hs : scanCells b m maxv as with
        | values vs => simp [hv]
        | violation c => simp [hv]
        | noCell a' => simpa [hv, hs] using hrest

/-- A map INIT admits sends every channel of the chain to a cell (R68, R122). -/
theorem sendCells_lt {b : Build} (hw : b.wellFormed = true) {n : Nat} (h : b.mapOk n = true) {a : Nat}
    (ha : a ∈ b.sendCells n) : a < b.cells := by
  obtain ⟨-, hch⟩ := Build.channels_bijective hw
  simp only [Build.mapOk, List.all_eq_true, List.mem_range, decide_eq_true_eq] at h
  simp only [Build.sendCells, Build.sendOrder, List.mem_map, List.mem_flatMap, List.mem_reverse, List.mem_range] at ha
  obtain ⟨_, ⟨d, hd, c, hc, rfl⟩, rfl⟩ := ha
  exact h d hd c ((hch c).1 hc)

theorem mapOk_of_configOk {b : Build} {ndev width : Nat} (h : b.configOk ndev width = true) : b.mapOk ndev = true := by
  simp only [Build.configOk, Bool.and_eq_true] at h
  obtain ⟨-, hmap⟩ := h
  exact hmap

/-- A configured controller scans cells of the grid only (R68). -/
theorem State.StatusInv.sendScan_ne_noCell {s : State} (h : s.StatusInv) (hw : s.build.wellFormed = true)
    (hi : s.initDone = true) (a : Nat) : s.sendScan ≠ .noCell a := by
  obtain ⟨hinit, -, -, -⟩ := h
  obtain ⟨-, -, -, -, hc⟩ := hinit hi
  exact scanCells_ne_noCell (fun _ ha => sendCells_lt hw (mapOk_of_configOk hc) ha) _ _ _

/-- Behind an admitted command the program is admitted again (R24, R76). -/
theorem State.Admitted.of_command {s t : State} {i : Instr} {rest : List Word} (h : s.Admitted)
    (hd : s.fetch = .command i rest) (hprog : t.prog = s.prog) (hpc : t.pc = s.pc + i.words) : t.Admitted := by
  obtain ⟨-, hrest⟩ := rest_of_decode_command hd
  rw [List.drop_drop] at hrest
  unfold State.Admitted at h ⊢
  rw [hprog, hpc, ← hrest, ← admitted_of_command hd, h]

/-- Settles O35: of what a step can answer, admission excludes the command cut short and the status invariant the
address that is no cell. -/
theorem admittedProgramsNeverStop : Obligations.AdmittedProgramsNeverStop := by
  unfold Obligations.AdmittedProgramsNeverStop
  intro s hw hs ha
  rcases step_cases s with ⟨h, -⟩ | ⟨c, w0, -, h⟩ | ⟨i, rest, t, -, hd, hb, h⟩ | ⟨a, rest, -, -, hi, hscan, -⟩ |
    ⟨-, hd, -⟩
  · exact ⟨_, h, ha⟩
  · exact ⟨_, h, ha⟩
  · obtain ⟨-, hprog, -, -, -, -, hpc⟩ := hb.keeps
    exact ⟨t, h, State.Admitted.of_command (s := s.environment) ha hd hprog hpc⟩
  · exact absurd hscan (hs.environment.sendScan_ne_noCell hw hi a)
  · exact absurd (ha.symm.trans (admitted_of_cutShort hd)) nofun

-- The cells of the frame buffer (R61)

/-- A pixel's cells are the four from its base on. -/
theorem outside_pixel {b : Build} {row col a : Nat} (h : ∀ slot < 4, a ≠ b.cellAddr row col slot) :
    a < b.pixelBase row col ∨ b.pixelBase row col + 4 ≤ a := by
  by_contra hin
  exact h (a - b.pixelBase row col) (by omega) (by unfold Build.cellAddr; omega)

/-- Settles O20: inside the grid the entry check passes and the body writes one pixel. -/
theorem fbSetPixelCompletes : Obligations.FbSetPixelCompletes := by
  unfold Obligations.FbSetPixelCompletes
  intro s row col r g b w hf hr hc
  have hv : s.indexCheck row.toNat col.toNat = none := if_pos ⟨hr, hc⟩
  obtain ⟨hred, hgreen, hblue, hwhite⟩ :=
    s.fb.read_writePixel (s.build.pixelBase row.toNat col.toNat) r.toNat g.toNat b.toNat w.toNat
  exact ⟨_, (exec_fbSetPixel row col r g b w s).trans (accept_pass hf hv), hred, hgreen, hblue, hwhite,
    fun a ha => Memory.read_writePixel_other _ _ _ _ _ _ _ (outside_pixel ha), rfl⟩

/-- Settles O31: only a frame-buffer body writes cells, and it keeps the canonical form, the grid and 16-bit values. -/
theorem stepKeepsTheMemoryInvariant : Obligations.StepKeepsTheMemoryInvariant := by
  unfold Obligations.StepKeepsTheMemoryInvariant
  intro s t hw hm h
  obtain ⟨-, hslots, hbits, -, -⟩ := Build.wellFormed_values hw
  rcases step_next_cases h with rfl | ⟨c, w0, rfl⟩ | ⟨i, hb⟩
  · exact hm
  · exact hm
  · cases hb with
    | wire as => simpa [State.MemoryInv] using hm
    | configured ndev width => simpa [State.MemoryInv] using hm
    | stored m hfb hwf hcells =>
      obtain ⟨hcanon, hin⟩ := hm
      refine ⟨hwf hcanon, fun p hp => ?_⟩
      have hold : ∀ p ∈ s.fb, p.1 < s.build.cells ∧ p.2 < 2 ^ 16 := by simpa only [hbits] using hin
      have := hcells hslots hold p hp
      simpa [hbits] using this

theorem cellAddr_eq {b : Build} (hw : b.wellFormed = true) (row col slot : Nat) :
    b.cellAddr row col slot = (row * b.cols + col) * 4 + slot := by
  obtain ⟨-, hslots, -, -, -⟩ := Build.wellFormed_values hw
  rw [Build.cellAddr, Build.pixelBase, hslots]

/-- The position of an address is read off it by division (R61). -/
theorem position_of_cellAddr {b : Build} (hw : b.wellFormed = true) {row col slot a : Nat} (hc : col < b.cols)
    (hs : slot < 4) (h : b.cellAddr row col slot = a) :
    row = a / 4 / b.cols ∧ col = a / 4 % b.cols ∧ slot = a % 4 := by
  rw [cellAddr_eq hw] at h
  have hpixel : a / 4 = b.cols * row + col := by rw [Nat.mul_comm]; omega
  refine ⟨?_, ?_, by omega⟩
  · rw [hpixel, Nat.mul_add_div (by omega), Nat.div_eq_of_lt hc, Nat.add_zero]
  · rw [hpixel, Nat.mul_add_mod, Nat.mod_eq_of_lt hc]

/-- Settles O48: an address belongs to the position its quotients and remainders by 4 and COLS name, and to no other. -/
theorem cellAddressesNumberTheGrid : Obligations.CellAddressesNumberTheGrid := by
  unfold Obligations.CellAddressesNumberTheGrid
  intro b hw
  obtain ⟨-, hslots, -, -, -⟩ := Build.wellFormed_values hw
  refine ⟨cellAddr_eq hw, fun row hr col hc slot hs => ?_, fun a ha => ?_⟩
  · have hp := Build.pixelBase_lt b row col hslots hr hc
    rw [Build.cells, hslots] at hp
    unfold Build.cellAddr
    omega
  · have hpixel : a / 4 < b.rows * b.cols := by omega
    have hcols : 0 < b.cols := Nat.pos_of_mul_pos_left (by omega : 0 < b.rows * b.cols)
    refine ⟨a / 4 / b.cols, a / 4 % b.cols, a % 4, ?_, Nat.mod_lt _ hcols, Nat.mod_lt _ (by decide), ?_, ?_⟩
    · exact Nat.div_lt_of_lt_mul (by rwa [Nat.mul_comm])
    · rw [cellAddr_eq hw, Nat.div_add_mod', Nat.div_add_mod']
    · exact fun row' col' slot' _ hc hs h => position_of_cellAddr hw hc hs h

-- The fairness of the clock (R74 c, R221)

/-- How many steps the schedule gives the generator at the points before the `n`-th. -/
def ticksBefore (n : Nat) : Nat := ∑ k ∈ Finset.range n, gclkSteps k

theorem ticksBefore_succ (n : Nat) : ticksBefore (n + 1) = ticksBefore n + gclkSteps n := Finset.sum_range_succ _ n

theorem ticksBefore_mono : Monotone ticksBefore := monotone_nat_of_le_succ fun n => by
  rw [ticksBefore_succ]
  exact Nat.le_add_right _ _

/-- From `s` to `t` the generator was on, and the trace gained the `Gclk` events of every point passed. -/
def ClockRan (s t : State) : Prop :=
  t.gclkEn = true ∧ (gclkTrace t.trace).length + ticksBefore s.env = (gclkTrace s.trace).length + ticksBefore t.env

theorem ClockRan.refl {s : State} (h : s.gclkEn = true) : ClockRan s s := ⟨h, rfl⟩

theorem ClockRan.trans {s t u : State} (h : ClockRan s t) (h' : ClockRan t u) : ClockRan s u := by
  obtain ⟨-, hn⟩ := h
  obtain ⟨hu, hn'⟩ := h'
  exact ⟨hu, by omega⟩

@[simp] theorem length_gclkEvents (l : Level) (n : Nat) : (gclkEvents l n).length = n := by
  induction n generalizing l with
  | zero => rfl
  | succ n ih => exact congrArg (· + 1) (ih (!l))

theorem clockRan_environment {s : State} (h : s.gclkEn = true) : ClockRan s s.environment := by
  refine ⟨h, ?_⟩
  simp [State.gclkTicks, h, ticksBefore_succ]
  omega

theorem clockRan_play {s : State} (h : s.gclkEn = true) (as : List Action) : ClockRan s (s.play as) := by
  induction as generalizing s with
  | nil => exact .refl h
  | cons a as ih =>
    have hp := a.perform_keeps_gclkEn h
    have ha : ClockRan s (a.perform s) := ⟨hp, by simp⟩
    exact (ha.trans (clockRan_environment hp)).trans (ih hp)

theorem BodyCase.clockRan {i : Instr} {s t : State} (h : BodyCase i s t) (hg : s.gclkEn = true) : ClockRan s t := by
  have hen := h.keeps_gclkEn hg
  cases h with
  | wire as => exact clockRan_play hg as
  | configured ndev width =>
    obtain ⟨-, hn⟩ := clockRan_play (s := s.setConfig ndev width) hg
      (initActions s.build ndev.toNat (width.setWidth 5).toNat)
    exact ⟨hen, hn⟩
  | stored m => exact ⟨hg, rfl⟩

theorem BodyCase.env_le {i : Instr} {s t : State} (h : BodyCase i s t) : s.env ≤ t.env := by
  cases h with
  | wire as => simp
  | configured ndev width => simp
  | stored m => exact le_rfl

/-- Every step passes at least one point at which the generator may move. -/
theorem clockRan_step {s t : State} (hg : s.gclkEn = true) (h : step s = .next t) : ClockRan s t ∧ s.env < t.env := by
  have he := clockRan_environment hg
  rcases step_next_cases h with rfl | ⟨c, w0, rfl⟩ | ⟨i, hb⟩
  · exact ⟨he, Nat.lt_succ_self _⟩
  · exact ⟨he.trans ⟨by simpa using hg, by rw [gclkTrace_raise]; rfl⟩, Nat.lt_succ_self _⟩
  · exact ⟨he.trans (hb.clockRan hg), hb.env_le⟩

theorem step_of_core_run_succ {n : Nat} {s t : State} (h : core.run (n + 1) s = .next t) :
    ∃ u, step s = .next u ∧ core.run n u = .next t := by
  have hr := run_succ core n s
  cases hs : core.step s with
  | next u => exact ⟨u, hs, (core_run_succ hs).symm.trans h⟩
  | fault r =>
    rw [hs] at hr
    cases hr.symm.trans h
  | refused r =>
    rw [hs] at hr
    cases hr.symm.trans h

theorem clockRan_run {n : Nat} {s t : State} (hg : s.gclkEn = true) (h : core.run n s = .next t) :
    ClockRan s t ∧ s.env + n ≤ t.env := by
  induction n generalizing s with
  | zero =>
    cases h
    exact ⟨.refl hg, le_rfl⟩
  | succ n ih =>
    obtain ⟨u, hu, hrun⟩ := step_of_core_run_succ h
    obtain ⟨hstep, henv⟩ := clockRan_step hg hu
    have hen : u.gclkEn = true := hstep.1
    obtain ⟨hrest, henv'⟩ := ih hen hrun
    exact ⟨hstep.trans hrest, by omega⟩

/-- An admitted program takes any number of steps (R76). -/
theorem run_of_admitted {s : State} (hw : s.build.wellFormed = true) (hs : s.StatusInv) (ha : s.Admitted) (n : Nat) :
    ∃ t, core.run n s = .next t := by
  induction n generalizing s with
  | zero => exact ⟨s, rfl⟩
  | succ n ih =>
    obtain ⟨u, hu, hau⟩ := admittedProgramsNeverStop s hw hs ha
    obtain ⟨-, -, -, -, -, hbuild, -, -⟩ := stepNeverUndoes s u hu
    rw [core_run_succ hu]
    exact ih (hbuild ▸ hw) (stepKeepsTheStatusInvariant s u hw hs hu) hau

/-- Settles O55: the schedule has a step at some later point, and each step of the machine passes a point. -/
theorem clockTogglesAgain : Obligations.ClockTogglesAgain := by
  unfold Obligations.ClockTogglesAgain
  intro s hg
  obtain ⟨k, hk, hpos⟩ := gclkSteps_fair s.env
  refine ⟨k + 1 - s.env, fun t h => ?_, fun hw hs ha => run_of_admitted hw hs ha _⟩
  obtain ⟨⟨-, hcount⟩, henv⟩ := clockRan_run hg h
  have hbefore : ticksBefore s.env ≤ ticksBefore k := ticksBefore_mono hk
  have hafter : ticksBefore (k + 1) ≤ ticksBefore t.env := ticksBefore_mono (by omega)
  rw [ticksBefore_succ] at hafter
  omega

end Machine

end Sys2Proof

/-! Proofs for the statements about the encoding (30_encoding.md): decoding and encoding are inverse, the opcode table
and the lengths agree with the decoder, and a uniform frame has two encodings with one command trace. -/

namespace Sys2Proof

/-- Settles O3: `decode_encode_append`, by cases on the command. -/
theorem decodeOfEncodeIsTheCommand : Obligations.DecodeOfEncodeIsTheCommand := decode_encode_append

/-- What R98 can answer on a word list that is not empty. -/
theorem decode_cases (w0 : Word) (ws : List Word) : DecodeCase w0 ws (decode (w0 :: ws)) := decodeWord_cases w0 ws

-- A word is made of its fields (R90, R93 to R97)

theorem append_extract_three {k n m : Nat} (w : BitVec (k + n + m)) :
    w.extractLsb' (m + n) k ++ w.extractLsb' m n ++ w.extractLsb' 0 m = w := by
  rw [BitVec.extractLsb'_append_extractLsb'_eq_extractLsb' rfl, append_extract]

theorem word_eq_halves (w : Word) : hiHalf w ++ loHalf w = w := append_extract (n := 16) (m := 16) w

theorem word_eq_op_low24 (w : Word) : opcodeOf w ++ fieldLow24 w = w := append_extract (n := 8) (m := 24) w

theorem word_eq_op_width_half (w : Word) : opcodeOf w ++ fieldWidth w ++ loHalf w = w :=
  append_extract_three (k := 8) (n := 8) (m := 16) w

theorem word_eq_op_low24But0_bit (w : Word) : opcodeOf w ++ fieldLow24But0 w ++ w.extractLsb' 0 1 = w :=
  append_extract_three (k := 8) (n := 23) (m := 1) w

theorem word_eq_op_row_col (w : Word) : opcodeOf w ++ fieldRow w ++ fieldCol w = w :=
  append_extract_three (k := 8) (n := 12) (m := 12) w

/-- The first word of a format-Z command is fixed by its opcode (R93). -/
theorem word_of_op_low24 {w : Word} {op : BitVec 8} (hop : opcodeOf w = op) (hz : fieldLow24 w = 0#24) :
    w = op ++ 0#24 := by
  rw [← word_eq_op_low24 w, hop, hz]

/-- Settles O4: in each case of the decoder the word is put together again from the fields the command was read from. -/
theorem decodedWordsAreTheEncoding : Obligations.DecodedWordsAreTheEncoding := by
  unfold Obligations.DecodedWordsAreTheEncoding
  intro ws rest i h
  cases ws with
  | nil => cases h
  | cons w0 ws =>
    have hc := decode_cases w0 ws
    rw [h] at hc
    have joined {i : Instr} {ws : List Word} (hfirst : w0 = i.firstWord) (htrail : ws = i.trailingWords ++ rest) :
        w0 :: ws = encode i ++ rest := by
      rw [hfirst, htrail, encode, List.cons_append]
    cases hc with
    | init hop =>
      refine joined ?_ rfl
      rw [Instr.firstWord, ← hop, word_eq_op_width_half]
    | shiftBit hop hz =>
      refine joined ?_ rfl
      rw [Instr.firstWord, ← hop, ← hz, word_eq_op_low24But0_bit]
    | shiftValue hop =>
      refine joined ?_ rfl
      rw [Instr.firstWord, ← hop, word_eq_op_width_half]
    | latch hop hz => exact joined (word_of_op_low24 hop hz) rfl
    | commit hop hz => exact joined (word_of_op_low24 hop hz) rfl
    | clear hop hz => exact joined (word_of_op_low24 hop hz) rfl
    | sendFrame hop hz => exact joined (word_of_op_low24 hop hz) rfl
    | fbClear hop hz => exact joined (word_of_op_low24 hop hz) rfl
    | setUniform hop hz =>
      refine joined ?_ rfl
      rw [Instr.firstWord, ← hop, ← hz, word_eq_op_width_half]
    | fbSetPixel w1 w2 _ hop hws =>
      refine joined ?_ ?_
      · rw [Instr.firstWord, ← hop, word_eq_op_row_col]
      · simp only [hws, Instr.trailingWords, word_eq_halves, List.cons_append, List.nil_append]
    | fbFill w1 w2 _ hop hz hws =>
      refine joined (word_of_op_low24 hop hz) ?_
      simp only [hws, Instr.trailingWords, word_eq_halves, List.cons_append, List.nil_append]

-- The rows of the opcode table (R92, R98)

theorem append_eq_append_iff {n m : Nat} {a c : BitVec n} {b d : BitVec m} : a ++ b = c ++ d ↔ a = c ∧ b = d := by
  refine ⟨fun h => ⟨?_, ?_⟩, fun ⟨ha, hb⟩ => by rw [ha, hb]⟩
  · simpa only [extract_append_hi] using congrArg (BitVec.extractLsb' m n) h
  · simpa only [extract_append_lo] using congrArg (BitVec.extractLsb' 0 m) h

/-- A mask of the upper bits compares the upper bits. -/
theorem and_upperMask_eq_iff {n m : Nat} (w : BitVec (n + m)) (p : BitVec n) :
    w &&& (BitVec.allOnes n ++ 0#m) = p ++ 0#m ↔ w.extractLsb' m n = p := by
  conv_lhs => rw [← append_extract w, BitVec.and_append, BitVec.and_allOnes, BitVec.and_zero, append_eq_append_iff]
  exact and_iff_left rfl

section Rows

variable (name : String) (words : Nat) (op : BitVec 8) (w : Word)

/-- The rows of formats I, V and P (R94, R97). -/
theorem selects_op : OpcodeRow.selects ⟨name, op ++ 0#24, 0xFF000000#32, words⟩ w = true ↔ opcodeOf w = op :=
  beq_iff_eq.trans (and_upperMask_eq_iff (n := 8) (m := 24) w op)

/-- The rows whose 24 low bits must be zero (R93, R97). -/
theorem selects_op_low24 : OpcodeRow.selects ⟨name, op ++ 0#24, 0xFFFFFFFF#32, words⟩ w = true ↔
    opcodeOf w = op ∧ fieldLow24 w = 0#24 := by
  have hall : w &&& 0xFFFFFFFF#32 = opcodeOf w ++ fieldLow24 w := BitVec.and_allOnes.trans (word_eq_op_low24 w).symm
  rw [OpcodeRow.selects, beq_iff_eq, hall, append_eq_append_iff]

/-- The row of SHIFT_BIT (R95). -/
theorem selects_op_low24But0 : OpcodeRow.selects ⟨name, op ++ 0#23 ++ 0#1, 0xFFFFFFFE#32, words⟩ w = true ↔
    opcodeOf w = op ∧ fieldLow24But0 w = 0#23 := by
  have hfields : w.extractLsb' 1 31 = opcodeOf w ++ fieldLow24But0 w :=
    (BitVec.extractLsb'_append_extractLsb'_eq_extractLsb' (len₁ := 23) (len₂ := 8) rfl).symm
  refine (beq_iff_eq.trans (and_upperMask_eq_iff (n := 31) (m := 1) w (op ++ 0#23))).trans ?_
  rw [hfields, append_eq_append_iff]

/-- The row of SET_UNIFORM (R96). -/
theorem selects_op_width : OpcodeRow.selects ⟨name, op ++ 0#8 ++ 0#16, 0xFFFF0000#32, words⟩ w = true ↔
    opcodeOf w = op ∧ fieldWidth w = 0#8 := by
  have hfields : w.extractLsb' 16 16 = opcodeOf w ++ fieldWidth w :=
    (BitVec.extractLsb'_append_extractLsb'_eq_extractLsb' (len₁ := 8) (len₂ := 8) rfl).symm
  refine (beq_iff_eq.trans (and_upperMask_eq_iff (n := 16) (m := 16) w (op ++ 0#8))).trans ?_
  rw [hfields, append_eq_append_iff]

end Rows

/-- A word that decodes to a command selects a row of the table. -/
theorem row_selects_of_command {w0 : Word} {ws rest : List Word} {i : Instr}
    (h : decode (w0 :: ws) = .command i rest) : ∃ r ∈ opcodeTable, r.selects w0 = true := by
  have hc := decode_cases w0 ws
  rw [h] at hc
  have row (k : Nat) (hk : k < opcodeTable.length) (hs : opcodeTable[k].selects w0 = true) :
      ∃ r ∈ opcodeTable, r.selects w0 = true := ⟨_, List.getElem_mem hk, hs⟩
  cases hc with
  | init hop => exact row 0 (by decide) ((selects_op _ _ 0x01 _).2 hop)
  | shiftBit hop hz => exact row 1 (by decide) ((selects_op_low24But0 _ _ 0x02 _).2 ⟨hop, hz⟩)
  | shiftValue hop => exact row 2 (by decide) ((selects_op _ _ 0x03 _).2 hop)
  | latch hop hz => exact row 3 (by decide) ((selects_op_low24 _ _ 0x04 _).2 ⟨hop, hz⟩)
  | commit hop hz => exact row 4 (by decide) ((selects_op_low24 _ _ 0x05 _).2 ⟨hop, hz⟩)
  | clear hop hz => exact row 5 (by decide) ((selects_op_low24 _ _ 0x06 _).2 ⟨hop, hz⟩)
  | sendFrame hop hz => exact row 6 (by decide) ((selects_op_low24 _ _ 0x07 _).2 ⟨hop, hz⟩)
  | setUniform hop hz => exact row 7 (by decide) ((selects_op_width _ _ 0x08 _).2 ⟨hop, hz⟩)
  | fbSetPixel w1 w2 _ hop => exact row 8 (by decide) ((selects_op _ _ 0x10 _).2 hop)
  | fbFill w1 w2 _ hop hz => exact row 9 (by decide) ((selects_op_low24 _ _ 0x11 _).2 ⟨hop, hz⟩)
  | fbClear hop hz => exact row 10 (by decide) ((selects_op_low24 _ _ 0x12 _).2 ⟨hop, hz⟩)

-- The three-word commands (R97)

theorem decode_fbSetPixel {w0 : Word} (hop : opcodeOf w0 = 0x10#8) (w1 w2 : Word) (rest : List Word) :
    decode (w0 :: w1 :: w2 :: rest) = .command
      (.fbSetPixel (fieldRow w0) (fieldCol w0) (hiHalf w1) (loHalf w1) (hiHalf w2) (loHalf w2)) rest := by
  simp [decode, decodeWord, hop]

theorem decode_fbFill {w0 : Word} (hop : opcodeOf w0 = 0x11#8) (hz : fieldLow24 w0 = 0#24) (w1 w2 : Word)
    (rest : List Word) : decode (w0 :: w1 :: w2 :: rest) =
      .command (.fbFill (hiHalf w1) (loHalf w1) (hiHalf w2) (loHalf w2)) rest := by
  simp [decode, decodeWord, hop, hz]

/-- A word that a row selects decodes to a command with the row's mnemonic and length. -/
theorem command_of_row_selects {w0 w1 w2 : Word} {rest : List Word} {r : OpcodeRow} (hr : r ∈ opcodeTable)
    (hs : r.selects w0 = true) : ∃ i rest', decode (w0 :: w1 :: w2 :: rest) = .command i rest' ∧
      i.mnemonic = r.mnemonic ∧ i.words = r.words := by
  simp only [opcodeTable, List.mem_cons, List.not_mem_nil, or_false] at hr
  rcases hr with rfl | rfl | rfl | rfl | rfl | rfl | rfl | rfl | rfl | rfl | rfl
  · have hop := (selects_op _ _ 0x01 _).1 hs
    exact ⟨.init (loHalf w0) (fieldWidth w0), w1 :: w2 :: rest, by simp [decode, decodeWord, hop], rfl, rfl⟩
  · obtain ⟨hop, hz⟩ := (selects_op_low24But0 _ _ 0x02 _).1 hs
    exact ⟨.shiftBit (w0.extractLsb' 0 1), w1 :: w2 :: rest, by simp [decode, decodeWord, hop, hz], rfl, rfl⟩
  · have hop := (selects_op _ _ 0x03 _).1 hs
    exact ⟨.shiftValue (loHalf w0) (fieldWidth w0), w1 :: w2 :: rest, by simp [decode, decodeWord, hop], rfl, rfl⟩
  · obtain ⟨hop, hz⟩ := (selects_op_low24 _ _ 0x04 _).1 hs
    exact ⟨.latch, w1 :: w2 :: rest, by simp [decode, decodeWord, decodeZ, hop, hz], rfl, rfl⟩
  · obtain ⟨hop, hz⟩ := (selects_op_low24 _ _ 0x05 _).1 hs
    exact ⟨.commit, w1 :: w2 :: rest, by simp [decode, decodeWord, decodeZ, hop, hz], rfl, rfl⟩
  · obtain ⟨hop, hz⟩ := (selects_op_low24 _ _ 0x06 _).1 hs
    exact ⟨.clear, w1 :: w2 :: rest, by simp [decode, decodeWord, decodeZ, hop, hz], rfl, rfl⟩
  · obtain ⟨hop, hz⟩ := (selects_op_low24 _ _ 0x07 _).1 hs
    exact ⟨.sendFrame, w1 :: w2 :: rest, by simp [decode, decodeWord, decodeZ, hop, hz], rfl, rfl⟩
  · obtain ⟨hop, hz⟩ := (selects_op_width _ _ 0x08 _).1 hs
    exact ⟨.setUniform (loHalf w0), w1 :: w2 :: rest, by simp [decode, decodeWord, hop, hz], rfl, rfl⟩
  · exact ⟨_, rest, decode_fbSetPixel ((selects_op _ _ 0x10 _).1 hs) w1 w2 rest, rfl, rfl⟩
  · obtain ⟨hop, hz⟩ := (selects_op_low24 _ _ 0x11 _).1 hs
    exact ⟨_, rest, decode_fbFill hop hz w1 w2 rest, rfl, rfl⟩
  · obtain ⟨hop, hz⟩ := (selects_op_low24 _ _ 0x12 _).1 hs
    exact ⟨.fbClear, w1 :: w2 :: rest, by simp [decode, decodeWord, decodeZ, hop, hz], rfl, rfl⟩

/-- With two more words no command is cut short, and an illegal word is named as it is read (R98, R100). -/
theorem decode_eq_command_or_illegal (w0 w1 w2 : Word) (rest : List Word) :
    (∃ i rest', decode (w0 :: w1 :: w2 :: rest) = .command i rest') ∨
      decode (w0 :: w1 :: w2 :: rest) = .illegal w0 := by
  have hc := decode_cases w0 (w1 :: w2 :: rest)
  generalize decode (w0 :: w1 :: w2 :: rest) = d at hc ⊢
  cases hc with
  | cutShort hop hlen => simp at hlen
  | shiftBitIllegal | setUniformIllegal | noOperandIllegal | reserved => exact .inr rfl
  | _ => exact .inl ⟨_, _, rfl⟩

/-- Settles O5: a row that selects the word names the command, and a command always has such a row. -/
theorem illegalWordsAreThoseNoRowSelects : Obligations.IllegalWordsAreThoseNoRowSelects := by
  unfold Obligations.IllegalWordsAreThoseNoRowSelects
  intro w0 w1 w2 rest
  refine ⟨fun r hr hs => command_of_row_selects hr hs, fun hnone => ?_⟩
  rcases decode_eq_command_or_illegal w0 w1 w2 rest with ⟨i, rest', h⟩ | h
  · obtain ⟨r, hr, hs⟩ := row_selects_of_command h
    exact absurd hs (by simp [hnone r hr])
  · exact h

-- Lengths (R91)

theorem opcodeOf_firstWord (i : Instr) : opcodeOf i.firstWord = i.opcode := by
  cases i with
  | init ndev width => exact opcodeOf_wide _ _ _
  | shiftBit bit => exact opcodeOf_bit _ _ _
  | shiftValue value width => exact opcodeOf_wide _ _ _
  | latch => rfl
  | commit => rfl
  | clear => rfl
  | sendFrame => rfl
  | setUniform value => exact opcodeOf_wide _ _ _
  | fbSetPixel row col r g b w => exact opcodeOf_pixel _ _ _
  | fbFill r g b w => exact opcodeOf_pair _ _
  | fbClear => rfl

theorem length_encode (i : Instr) : (encode i).length = if i.opcode = 0x10#8 ∨ i.opcode = 0x11#8 then 3 else 1 := by
  cases i <;> rfl

/-- Settles O6: the words read are the encoding (O4), whose first word holds the opcode; a three-word command checks
nothing but its first word. -/
theorem lengthIsAFunctionOfTheOpcode : Obligations.LengthIsAFunctionOfTheOpcode := by
  unfold Obligations.LengthIsAFunctionOfTheOpcode
  refine ⟨fun w0 ws rest i h => ?_, fun w0 w1 w2 v1 v2 rest i hop h => ?_⟩
  · have hws := decodedWordsAreTheEncoding _ _ _ h
    have hw0 : w0 = i.firstWord := List.head_eq_of_cons_eq hws
    rw [hws, List.length_append, length_encode, hw0, opcodeOf_firstWord]
  · rcases hop with hop | hop
    · exact ⟨_, decode_fbSetPixel hop v1 v2 rest⟩
    · have hz : fieldLow24 w0 = 0#24 := by
        by_contra hnz
        simp [decode, decodeWord, hop, hnz] at h
      exact ⟨_, decode_fbFill hop hz v1 v2 rest⟩

/-- Settles O7: the decoder evaluates on each of the nine lists. -/
theorem wordsOfTheVectorsDecode : Obligations.WordsOfTheVectorsDecode := by
  unfold Obligations.WordsOfTheVectorsDecode
  decide

namespace Machine

/-- Settles O9: the fetch after the environment's move is the one before it, and CV_ILLEGAL is the first check. -/
theorem illegalWordAtPcFaults : Obligations.IllegalWordAtPcFaults := by
  unfold Obligations.IllegalWordAtPcFaults
  intro s w0 hf h
  rw [step_running hf, show s.environment.fetch = .illegal w0 from h]
  exact accept_violation (s := s.environment) hf rfl

-- A uniform frame: FB_FILL and SEND_FRAME against SET_UNIFORM (R104)

/-- What one step of a fold establishes and every step keeps holds at its end. -/
theorem foldl_of_mem {α β : Type} {P : β → Prop} {f : β → α → β} (hkeep : ∀ b a, P b → P (f b a)) {l : List α}
    {x : α} (hx : x ∈ l) (hmake : ∀ b, P (f b x)) (b : β) : P (l.foldl f b) := by
  induction l generalizing b with
  | nil => cases hx
  | cons y l ih =>
    rcases List.mem_cons.1 hx with rfl | hx
    · exact List.foldlRecOn l f (hmake b) fun b hb a _ => hkeep b a hb
    · exact ih hx _

/-- The four cells from `base` on hold the colour (R61). -/
def Memory.Shows (base r g b w : Nat) (m : Memory) : Prop :=
  m.read (base + 0) = some r ∧ m.read (base + 1) = some g ∧ m.read (base + 2) = some b ∧
    m.read (base + 3) = some w

/-- A pixel keeps its colour when another pixel, or the same one, is written in that colour. -/
theorem Memory.Shows.writePixel {build : Build} (hs : build.slots = 4) {m : Memory} {row col r g b w : Nat}
    (h : m.Shows (build.pixelBase row col) r g b w) (row' col' : Nat) :
    (m.writePixel (build.pixelBase row' col') r g b w).Shows (build.pixelBase row col) r g b w := by
  by_cases hpixel : row' * build.cols + col' = row * build.cols + col
  · have hbase : build.pixelBase row' col' = build.pixelBase row col := by
      unfold Build.pixelBase
      rw [hpixel]
    rw [hbase]
    exact m.read_writePixel _ r g b w
  · have other (slot : Nat) (hslot : slot < 4) :
        (m.writePixel (build.pixelBase row' col') r g b w).read (build.pixelBase row col + slot) =
          m.read (build.pixelBase row col + slot) := by
      refine Memory.read_writePixel_other _ _ _ _ _ _ _ ?_
      unfold Build.pixelBase
      rw [hs]
      omega
    rw [Memory.Shows, other 0 (by decide), other 1 (by decide), other 2 (by decide), other 3 (by decide)]
    exact h

/-- FB_FILL gives every pixel of the grid the colour (R167). -/
theorem Memory.shows_fill (m : Memory) {build : Build} (hs : build.slots = 4) (r g b w : Nat) {row col : Nat}
    (hr : row < build.rows) (hc : col < build.cols) :
    (m.fill build r g b w).Shows (build.pixelBase row col) r g b w := by
  unfold Memory.fill
  refine foldl_of_mem (fun m row' hm => ?_) (List.mem_range.2 hr) (fun m => ?_) m
  · exact List.foldlRecOn _ _ hm fun m hm col' _ => hm.writePixel hs row' col'
  · exact foldl_of_mem (fun m col' hm => hm.writePixel hs row col') (List.mem_range.2 hc)
      (fun m => m.read_writePixel _ r g b w) m

/-- After a fill in one value every cell of the frame buffer holds it (R167). -/
theorem Memory.read_fill_uniform (m : Memory) {build : Build} (hw : build.wellFormed = true) (v : Nat) {a : Nat}
    (ha : a < build.cells) : (m.fill build v v v v).read a = some v := by
  obtain ⟨-, hslots, -, -, -⟩ := Build.wellFormed_values hw
  obtain ⟨-, -, hposition⟩ := cellAddressesNumberTheGrid build hw
  rw [Build.cells, hslots] at ha
  obtain ⟨row, col, slot, hr, hc, hslot, rfl, -⟩ := hposition a ha
  obtain ⟨h0, h1, h2, h3⟩ := m.shows_fill hslots v v v v hr hc
  unfold Build.cellAddr
  interval_cases slot
  · exact h0
  · exact h1
  · exact h2
  · exact h3

/-- A scan over cells that all hold a value in range finds the values (R152). -/
theorem scanCells_eq_values {b : Build} {m : Memory} {maxv : Nat} {f : Nat → Nat} {as : List Nat}
    (h : ∀ a ∈ as, a < b.cells ∧ m.read a = some (f a) ∧ f a ≤ maxv) :
    scanCells b m maxv as = .values (as.map f) := by
  induction as with
  | nil => rfl
  | cons a as ih =>
    obtain ⟨hcell, hread, hrange⟩ := h a List.mem_cons_self
    have hrest := ih fun x hx => h x (List.mem_cons_of_mem _ hx)
    simp [scanCells, hcell, hread, hrest, Nat.not_lt.2 hrange]

/-- After a fill in one value in range SEND_FRAME's scan finds that value for every channel of the chain, under every
FB_MAP and CH_ORDER. -/
theorem sendScan_fill_uniform {s : State} {v : Nat} (hw : s.build.wellFormed = true) (hs : s.StatusInv)
    (hi : s.initDone = true) (hv : v ≤ maxValue s.cfgWidth.toNat) :
    ((s.fillWith v v v v).advance 3).sendScan = .values ((s.build.sendOrder s.cfgNdev.toNat).map fun _ => v) := by
  obtain ⟨hinit, -, -, -⟩ := hs
  obtain ⟨-, -, -, -, hconfig⟩ := hinit hi
  have hcells : ∀ a ∈ s.build.sendCells s.cfgNdev.toNat,
      a < s.build.cells ∧ (s.fb.fill s.build v v v v).read a = some v ∧ v ≤ maxValue s.cfgWidth.toNat := by
    intro a ha
    have hcell := sendCells_lt hw (mapOk_of_configOk hconfig) ha
    exact ⟨hcell, s.fb.read_fill_uniform hw v hcell, hv⟩
  refine (scanCells_eq_values (f := fun _ => v) hcells).trans ?_
  rw [Build.sendCells, List.map_map]
  rfl

/-- Settles O46: the values SEND_FRAME finds after the fill are those SET_UNIFORM sends. -/
theorem fillThenSendEqualsSetUniform : Obligations.FillThenSendEqualsSetUniform := by
  unfold Obligations.FillThenSendEqualsSetUniform
  intro s v hw hrun hs hv
  obtain ⟨hi, hf⟩ := hrun
  have hsend := exec_sendFrame (s := (s.fillWith v.toNat v.toNat v.toNat v.toNat).advance 3) hf hi
  rw [sendScan_fill_uniform hw hs hi hv] at hsend
  have hcheck : s.needsInit.or (s.uniformCheck v.toNat) = none := by
    rw [needsInit_done hi]
    exact if_neg (Nat.not_lt.2 hv)
  refine ⟨_, _, _, (exec_fbFill v v v v s).trans (accept_pass hf rfl), hsend, ?_,
    (exec_setUniform v s).trans (accept_pass hf hcheck), ?_⟩
  · simpa using hf
  · simp

end Machine

end Sys2Proof

/-! Proofs for the statements about INIT (40_initialize.md): what its entry checks decide, the protocol events and the
counts of its body, and the state it leaves. -/

namespace Sys2Proof

-- The configurations R122 calls well formed

theorem Build.fbAddr_linear {b : Build} (h : b.fbMap = .linear) (d c : Nat) : b.fbAddr d c = d * b.nch + c := by
  rw [Build.fbAddr, h]

/-- The map is the default one when it has the default values on the chain (R62; log entry 6). -/
theorem Build.mapIsDefault_iff (b : Build) (ndev : Nat) :
    b.mapIsDefault ndev = true ↔ ∀ d < ndev, ∀ c < b.nch, b.fbAddr d c = d * b.nch + c := by
  unfold Build.mapIsDefault
  split
  next h => exact iff_of_true rfl fun d _ c _ => Build.fbAddr_linear h d c
  next => simp

theorem Build.sizeOk_iff (b : Build) (ndev : Nat) :
    b.sizeOk ndev = true ↔
      ((∀ d < ndev, ∀ c < b.nch, b.fbAddr d c = d * b.nch + c) → b.cells = ndev * b.nch) := by
  rw [← b.mapIsDefault_iff, Build.sizeOk]
  cases b.mapIsDefault ndev <;> simp

theorem Build.mapOk_iff (b : Build) (ndev : Nat) :
    b.mapOk ndev = true ↔ ∀ d < ndev, ∀ c < b.nch, b.fbAddr d c < b.cells := by
  simp [Build.mapOk]

/-- The four conditions of R122, with the values of R6. -/
theorem Build.configOk_iff {b : Build} (hw : b.wellFormed = true) (ndev width : Nat) :
    b.configOk ndev width = true ↔
      1 ≤ ndev ∧ 1 ≤ width ∧ width ≤ 16 ∧
        (∀ d < ndev, ∀ c < 16, b.fbAddr d c < b.rows * b.cols * 4) ∧
        ((∀ d < ndev, ∀ c < 16, b.fbAddr d c = d * 16 + c) → b.rows * b.cols * 4 = ndev * 16) := by
  obtain ⟨hnch, hslots, hbits, -, -⟩ := Build.wellFormed_values hw
  simp only [Build.configOk, Bool.and_eq_true, decide_eq_true_eq, Build.sizeOk_iff, Build.mapOk_iff, Build.cells, hnch,
    hslots, hbits]
  tauto

namespace Machine

-- INIT's entry checks (R121, R206)

theorem initCheck_done {s : State} (h : s.initDone = true) (ndev width : Nat) :
    s.initCheck ndev width = some .reinit := by simp [State.initCheck, h]

theorem initCheck_fresh {s : State} (h : s.initDone = false) (ndev width : Nat) :
    s.initCheck ndev width = if s.build.configOk ndev width then none else some .config := by
  simp [State.initCheck, h]

/-- An INIT that passes its checks: the configuration as given, then the body, then INIT_DONE (R121). -/
theorem exec_init_pass {s : State} {ndev : BitVec 16} {width : BitVec 8} (hw : s.build.wellFormed = true)
    (hf : s.faulted = false) (hi : s.initDone = false) (hc : s.build.configOk ndev.toNat width.toNat = true) :
    exec (.init ndev width) s = .next ((((s.setConfig ndev width).play
      (initActions s.build ndev.toNat width.toNat)).setInitDone).advance 1) := by
  have hcheck : s.initCheck ndev.toNat width.toNat = none := by rw [initCheck_fresh hi, if_pos hc]
  rw [exec_init, accept_pass hf hcheck, setWidth_of_configOk hw hc]

/-- Settles O24: INIT_DONE decides the first check and R122's list (`Build.configOk_iff`) the second. -/
theorem initChecksInOrder : Obligations.InitChecksInOrder := by
  unfold Obligations.InitChecksInOrder
  intro s ndev width hw hf
  rw [← Build.configOk_iff hw]
  refine ⟨fun hi => ?_, fun hi hc => ?_, fun hi hc => ?_⟩
  · exact (exec_init ndev width s).trans (accept_violation hf (initCheck_done hi _ _))
  · exact (exec_init ndev width s).trans (accept_violation hf (by rw [initCheck_fresh hi, if_neg hc]))
  · exact ⟨_, exec_init_pass hw hf hi hc, by simp, by simpa using hf⟩

-- The protocol events of a body (R190)

theorem protocolFrom_append (leShifts : Bool) (p : Probe) (es fs : List Event) :
    protocolFrom leShifts p (es ++ fs) =
      protocolFrom leShifts p es ++ protocolFrom leShifts (p.after leShifts es) fs := by
  induction es generalizing p with
  | nil => rfl
  | cons e es ih => simp [protocolFrom, Probe.after, ih]

theorem Probe.after_append (leShifts : Bool) (p : Probe) (es fs : List Event) :
    p.after leShifts (es ++ fs) = (p.after leShifts es).after leShifts fs := by
  induction es generalizing p with
  | nil => rfl
  | cons e es ih => exact ih _

/-- The body makes the protocol events `ps` and takes the tracked levels from `p` to `q`. -/
def Probe.Sees (p : Probe) (as : List Action) (ps : List ProtoEvent) (q : Probe) : Prop :=
  protocolFrom false p (actionEvents as) = ps ∧ p.after false (actionEvents as) = q

theorem Probe.Sees.append {p q r : Probe} {as bs : List Action} {ps qs : List ProtoEvent} (ha : p.Sees as ps q)
    (hb : q.Sees bs qs r) : p.Sees (as ++ bs) (ps ++ qs) r := by
  obtain ⟨hps, rfl⟩ := ha
  obtain ⟨hqs, rfl⟩ := hb
  unfold Probe.Sees
  rw [actionEvents_append, protocolFrom_append, Probe.after_append, hps, hqs]
  exact ⟨rfl, rfl⟩

/-- DCLK and LE are low, as between two commands (R22). -/
def Probe.Idle (p : Probe) : Prop := p.dclk = false ∧ p.le = false

/-- From idle lines the body makes the protocol events `ps` and leaves the lines idle. -/
def Sends (as : List Action) (ps : List ProtoEvent) : Prop := ∀ p : Probe, p.Idle → ∃ q, q.Idle ∧ p.Sees as ps q

theorem Sends.nil : Sends [] [] := fun p h => ⟨p, h, rfl, rfl⟩

theorem Sends.append {as bs : List Action} {ps qs : List ProtoEvent} (ha : Sends as ps) (hb : Sends bs qs) :
    Sends (as ++ bs) (ps ++ qs) := by
  intro p hp
  obtain ⟨q, hq, hpq⟩ := ha p hp
  obtain ⟨r, hr, hqr⟩ := hb q hq
  exact ⟨r, hr, hpq.append hqr⟩

theorem Sends.flatMap {α : Type} {l : List α} {f : α → List Action} {g : α → List ProtoEvent}
    (h : ∀ x ∈ l, Sends (f x) (g x)) : Sends (l.flatMap f) (l.flatMap g) := by
  induction l with
  | nil => exact .nil
  | cons x l ih => exact .append (h x List.mem_cons_self) (ih fun y hy => h y (List.mem_cons_of_mem _ hy))

variable (b : Build)

theorem sends_shiftBit (v : Level) : Sends (shiftBit b v) [.shift v] := by
  rintro ⟨sdi, dclk, le, count⟩ ⟨rfl, rfl⟩
  exact ⟨⟨v, false, false, count⟩, ⟨rfl, rfl⟩, rfl, rfl⟩

/-- The bits of a shifted value, most significant first (R133). -/
theorem sends_shiftValue (v w : Nat) :
    Sends (shiftValue b v w) ((List.range w).map fun i => .shift (v.testBit (w - 1 - i))) := by
  induction w with
  | zero => exact .nil
  | succ w ih =>
    have hbits : (List.range (w + 1)).map (fun i => ProtoEvent.shift (v.testBit (w + 1 - 1 - i))) =
        .shift (v.testBit w) :: (List.range w).map fun i => .shift (v.testBit (w - 1 - i)) := by
      rw [List.range_succ_eq_map, List.map_cons, List.map_map]
      refine congrArg (List.cons _) (List.map_congr_left fun i _ => ?_)
      simp [Nat.add_comm i 1, Nat.sub_sub]
    rw [hbits]
    exact (sends_shiftBit b _).append ih

/-- Under LE high each DCLK pulse is counted and nothing is shifted (R190). -/
theorem sees_dclkPulses (sdi : Level) (count n : Nat) :
    Probe.Sees ⟨sdi, false, true, count⟩ (dclkPulses b n) [] ⟨sdi, false, true, count + n⟩ := by
  induction n generalizing count with
  | zero => exact ⟨rfl, rfl⟩
  | succ n ih =>
    have hone : Probe.Sees ⟨sdi, false, true, count⟩ (pulseDclk b ++ [.wait b.tBitNs]) []
        ⟨sdi, false, true, count + 1⟩ := ⟨rfl, rfl⟩
    have hall := hone.append (ih (count + 1))
    rwa [Nat.add_assoc, Nat.add_comm 1] at hall

/-- Raising LE opens a window, its pulses are counted, and lowering LE reports the count (R141, R190). -/
theorem sends_lePulse (n : Nat) : Sends (lePulse b n) [.lePulse n] := by
  rintro ⟨sdi, dclk, le, count⟩ ⟨rfl, rfl⟩
  have hraise : Probe.Sees ⟨sdi, false, false, count⟩
      [.drive .dclk false, .wait b.tLeNs, .drive .le true, .wait b.tLeNs] [] ⟨sdi, false, true, 0⟩ := ⟨rfl, rfl⟩
  have hlower : Probe.Sees ⟨sdi, false, true, 0 + n⟩ [.wait b.tLeNs, .drive .le false, .wait b.tLeNs] [.lePulse (0 + n)]
      ⟨sdi, false, false, 0 + n⟩ := ⟨rfl, rfl⟩
  have hall := (hraise.append (sees_dclkPulses b sdi 0 n)).append hlower
  rw [Nat.zero_add] at hall
  exact ⟨_, ⟨rfl, rfl⟩, hall⟩

theorem sends_shiftZero (w : Nat) : Sends (shiftValue b 0 w) (List.replicate w (.shift false)) := by
  simpa using sends_shiftValue b 0 w

/-- The rounds and the commit of `clear_body` on the wire (R150). -/
theorem sends_clearBody {b : Build} (hw : b.wellFormed = true) (n w : Nat) :
    Sends (clearBody b n w)
      ((List.range n).flatMap (fun _ => List.replicate (16 * w) (.shift false) ++ [.lePulse 1]) ++ [.lePulse 3]) := by
  obtain ⟨hnch, -, -, hlatch, hcommit⟩ := Build.wellFormed_values hw
  have hzeros : (List.range 16).flatMap (fun _ => List.replicate w (ProtoEvent.shift false)) =
      List.replicate (16 * w) (.shift false) := by
    simp only [List.flatMap_def, List.map_const', List.length_range, List.flatten_replicate_replicate]
  have hround : Sends (clearRound b w) (List.replicate (16 * w) (.shift false) ++ [.lePulse 1]) := by
    rw [clearRound, hnch, hlatch, ← hzeros]
    exact (Sends.flatMap fun _ _ => sends_shiftZero b w).append (sends_lePulse b 1)
  rw [clearBody, hcommit]
  exact (Sends.flatMap fun _ _ => hround).append (sends_lePulse b 3)

theorem sends_bringUp : Sends bringUp [] := by
  rintro ⟨sdi, dclk, le, count⟩ ⟨rfl, rfl⟩
  exact ⟨⟨false, false, false, count⟩, ⟨rfl, rfl⟩, rfl, rfl⟩

/-- INIT's directions, idle levels and clock start make no protocol event; its clear does (R125). -/
theorem sends_initActions {b : Build} {ps : List ProtoEvent} {n w : Nat} (h : Sends (clearBody b n w) ps) :
    Sends (initActions b n w) ps := by
  have hstart : Sends [.gclkStart b.gclkHz b.gclkDutyPct] [] := fun p hp => ⟨p, hp, rfl, rfl⟩
  exact sends_bringUp.append (hstart.append h)

-- The number of events of a body (R250)

@[simp] theorem length_actionEvents (as : List Action) : (actionEvents as).length = as.length := by
  simp [actionEvents]

@[simp] theorem length_shiftBit (v : Level) : (shiftBit b v).length = 5 := rfl

@[simp] theorem length_shiftValue (v w : Nat) : (shiftValue b v w).length = 5 * w := by
  induction w with
  | zero => rfl
  | succ w ih => rw [shiftValue, List.length_append, ih, length_shiftBit]; omega

@[simp] theorem length_dclkPulses (n : Nat) : (dclkPulses b n).length = 4 * n := by
  induction n with
  | zero => rfl
  | succ n ih =>
    have hone : (pulseDclk b ++ [Action.wait b.tBitNs]).length = 4 := rfl
    rw [dclkPulses, List.length_append, hone, ih]
    omega

@[simp] theorem length_lePulse (n : Nat) : (lePulse b n).length = 4 * n + 7 := by
  simp [lePulse]

@[simp] theorem length_clearRound (w : Nat) :
    (clearRound b w).length = b.nch * (5 * w) + (4 * b.latchPulses + 7) := by
  simp [clearRound]

theorem length_clearBody {b : Build} (hw : b.wellFormed = true) (n w : Nat) :
    (clearBody b n w).length = n * (5 * 16 * w + 11) + 19 := by
  obtain ⟨hnch, -, -, hlatch, hcommit⟩ := Build.wellFormed_values hw
  have hround : (clearRound b w).length = 5 * 16 * w + 11 := by
    rw [length_clearRound, hnch, hlatch]
    omega
  simp [clearBody, hround, hcommit]

theorem length_initActions {b : Build} (hw : b.wellFormed = true) (n w : Nat) :
    (initActions b n w).length = 5 + 4 + 1 + n * (5 * 16 * w + 11) + 19 := by
  rw [initActions_eq, List.length_append, List.length_cons, length_clearBody hw]
  simp only [bringUp, List.length_cons, List.length_nil]
  omega

-- The state a successful INIT leaves (R125)

/-- The clear drives SDI to 0 only (R150). -/
theorem lastDriven_clearBody_sdi (n w : Nat) : lastDriven .sdi false (clearBody b n w) = false := by
  have hvalue : lastDriven .sdi false (shiftValue b 0 w) = false := by simp [lastDriven_shiftValue_sdi]
  have hround : lastDriven .sdi false (clearRound b w) = false := by
    rw [clearRound, lastDriven_append, lastDriven_lePulse_sdi]
    exact lastDriven_flatMap_keeps _ _ _ _ fun _ _ => hvalue
  rw [clearBody, lastDriven_append, lastDriven_lePulse_sdi]
  exact lastDriven_flatMap_keeps _ _ _ _ fun _ _ => hround

/-- INIT's body ends with SDI, DCLK and LE low, whatever they were (R125). -/
theorem State.play_initActions_low (s : State) (n w : Nat) :
    (s.play (initActions b n w)).line.sdi = false ∧ (s.play (initActions b n w)).line.dclk = false ∧
      (s.play (initActions b n w)).line.le = false := by
  rw [State.play_sdi, State.play_dclk, State.play_le]
  simp only [initActions_eq, lastDriven_append]
  exact ⟨lastDriven_clearBody_sdi b n w, lastDriven_clearBody_dclk b _ n w, lastDriven_clearBody_le b _ n w⟩

/-- INIT's body sets GCLK_EN and no other bit of STATUS, and the generator it starts finds GCLK low (R121, R123). -/
theorem State.play_initActions_clock {s : State} (h : s.gclkEn = false) (n w : Nat) :
    (s.play (initActions b n w)).status = s.status ||| 4#3 ∧
      ∃ k, gclkTrace (s.play (initActions b n w)).trace = gclkTrace s.trace ++ gclkEvents false k ∧
        (s.play (initActions b n w)).line.gclk = gclkLevel false k := by
  have hclear := onWire_clearBody b n w
  rw [initActions_eq, State.play_append, State.play_bringUp h]
  refine ⟨State.play_status _ _ (not_start_of_onWire hclear), ?_⟩
  obtain ⟨k, htrace, hlevel, -⟩ := State.play_gclk _ (.gclkStart b.gclkHz b.gclkDutyPct :: clearBody b n w)
    (by simp [not_gclk_of_onWire hclear])
  exact ⟨k, by rw [htrace]; simp, hlevel⟩

/-- Settles O19: the body plays INIT's actions, whose protocol events, count, last levels, directions and clock the
lemmas above give; nothing else of the state is written. -/
theorem initCompletes : Obligations.InitCompletes := by
  unfold Obligations.InitCompletes
  intro s ndev width hw hs hc
  have hi : s.initDone = false := by simp [State.initDone, hs]
  have hf : s.faulted = false := by simp [State.faulted, hs]
  have hg : s.gclkEn = false := by simp [State.gclkEn, hs]
  obtain ⟨hdir, -⟩ := State.play_initActions (s := s.setConfig ndev width) hg s.build ndev.toNat width.toNat
  obtain ⟨hsdi, hdclk, hle⟩ := (s.setConfig ndev width).play_initActions_low s.build ndev.toNat width.toNat
  obtain ⟨hstatus, hclock⟩ :=
    State.play_initActions_clock s.build (s := s.setConfig ndev width) hg ndev.toNat width.toNat
  have hproto := sends_initActions (sends_clearBody hw ndev.toNat width.toNat)
  refine ⟨_, actionEvents (initActions s.build ndev.toNat width.toNat), exec_init_pass hw hf hi hc, by simp, rfl,
    fun p hpdclk hple => ?_, ?_, hdir, hsdi, hdclk, hle, hclock, by simp [State.csr],
    by simp [State.csr, setWidth_of_configOk hw hc], by simp [hstatus, hs], by simp, by simp, fun a => by simp,
    by simp, by simp, State.play_trace_grows (s.setConfig ndev width) _, by simp⟩
  · obtain ⟨-, -, hevents, -⟩ := hproto p ⟨hpdclk, hple⟩
    exact hevents
  · rw [length_actionEvents, length_initActions hw]

end Machine

end Sys2Proof

/-! Proofs for the statements about the shift family (41_shift.md): the state SHIFT_BIT and SHIFT_VALUE leave, the bits
shift_value sends and their counts, and its arithmetic laws. -/

namespace Sys2Proof.Machine

-- The frame of a wire command

/-- Playing a wire-only body and moving `pc` on keeps everything the frame of a wire command names (R22, R23, R24). -/
theorem wireFrame_play (s : State) {as : List Action} (h : as.all Action.onWire = true) (len : Nat) :
    WireFrame s ((s.play as).advance len) := by
  obtain ⟨hdir, hstatus, hgclk⟩ := State.play_onWire s as h
  have hcsrs : SameCsrs s ((s.play as).advance len) := ⟨by simp, by simp, hstatus, by simp, by simp⟩
  have hcells : SameCells s ((s.play as).advance len) := fun a => by simp
  exact ⟨hcsrs, hcells, hdir, State.play_prog s as, State.play_build s as, hgclk, State.play_trace_grows s as⟩

/-- SHIFT_BIT in the running phase plays its body and moves on (R132). -/
theorem exec_shiftBit_running {s : State} (h : s.Running) (bit : BitVec 1) :
    exec (.shiftBit bit) s = .next ((s.play (shiftBit s.build (bit == 1#1))).advance 1) := by
  obtain ⟨hi, hf⟩ := h
  exact (exec_shiftBit bit s).trans (accept_pass hf (needsInit_done hi))

/-- SHIFT_VALUE in the running phase plays its body and moves on (R134). -/
theorem exec_shiftValue_running {s : State} (h : s.Running) (value : BitVec 16) (width : BitVec 8) :
    exec (.shiftValue value width) s =
      .next ((s.play (shiftValue s.build value.toNat width.toNat)).advance 1) := by
  obtain ⟨hi, hf⟩ := h
  exact (exec_shiftValue value width s).trans (accept_pass hf (needsInit_done hi))

/-- Settles O12: the body's events and last levels, and the frame of a wire-only body. -/
theorem shiftBitCompletes : Obligations.ShiftBitCompletes := by
  unfold Obligations.ShiftBitCompletes
  intro s bit hrun
  exact ⟨_, exec_shiftBit_running hrun bit, commandTrace_play s _, by simp, by simp, by simp, by simp,
    wireFrame_play s (onWire_shiftBit _ _) 1⟩

-- The bits of a shifted value, most significant first (R133)

variable (b : Build)

theorem shiftValue_eq_flatMap (v w : Nat) :
    shiftValue b v w = (List.range w).flatMap fun i => shiftBit b (v.testBit (w - 1 - i)) := by
  induction w with
  | zero => rfl
  | succ w ih =>
    have hindex (i : Nat) : w + 1 - 1 - (i + 1) = w - 1 - i := by omega
    rw [shiftValue, ih, List.range_succ_eq_map, List.flatMap_cons, List.flatMap_map]
    simp only [Nat.succ_eq_add_one, hindex]
    rfl

theorem actionEvents_flatMap {α : Type} (l : List α) (f : α → List Action) :
    actionEvents (l.flatMap f) = l.flatMap fun x => actionEvents (f x) := List.map_flatMap ..

theorem lastDriven_shiftValue_dclk_of_pos {w : Nat} (hw : 0 < w) (l : Level) (v : Nat) :
    lastDriven .dclk l (shiftValue b v w) = false := by
  obtain ⟨w, rfl⟩ := Nat.exists_eq_add_one_of_ne_zero hw.ne'
  rw [shiftValue, lastDriven_append, lastDriven_shiftBit_dclk, lastDriven_shiftValue_dclk]

/-- Settles O13: the body is one shifted bit per position (`shiftValue_eq_flatMap`); with width 0 it is empty. -/
theorem shiftValueCompletes : Obligations.ShiftValueCompletes := by
  unfold Obligations.ShiftValueCompletes
  intro s value width hrun
  refine ⟨_, exec_shiftValue_running hrun value width, ?_, fun hw => ⟨?_, ?_⟩, fun hw => ?_, ?_, by simp,
    wireFrame_play s (onWire_shiftValue _ _ _) 1⟩
  · rw [State.advance_trace, commandTrace_play, shiftValue_eq_flatMap, actionEvents_flatMap]
    rfl
  · rw [State.advance_line, State.play_sdi, lastDriven_shiftValue_sdi, if_neg hw.ne']
  · rw [State.advance_line, State.play_dclk, lastDriven_shiftValue_dclk_of_pos _ hw]
  · rw [hw]
    exact ⟨rfl, rfl⟩
  · rw [State.advance_line, State.play_le, lastDriven_shiftValue_le]

-- The counts of a shifted value (R133)

@[simp] theorem setCount_append (es fs : List Event) : setCount (es ++ fs) = setCount es + setCount fs :=
  List.countP_append

@[simp] theorem dclkRises_append (es fs : List Event) : dclkRises (es ++ fs) = dclkRises es + dclkRises fs :=
  List.countP_append

@[simp] theorem setCount_shiftBit (v : Level) : setCount (actionEvents (shiftBit b v)) = 3 := rfl

@[simp] theorem dclkRises_shiftBit (v : Level) : dclkRises (actionEvents (shiftBit b v)) = 1 := rfl

@[simp] theorem setCount_shiftValue (v w : Nat) : setCount (actionEvents (shiftValue b v w)) = 3 * w := by
  induction w with
  | zero => rfl
  | succ w ih => rw [shiftValue, actionEvents_append, setCount_append, setCount_shiftBit, ih]; omega

@[simp] theorem dclkRises_shiftValue (v w : Nat) : dclkRises (actionEvents (shiftValue b v w)) = w := by
  induction w with
  | zero => rfl
  | succ w ih => rw [shiftValue, actionEvents_append, dclkRises_append, dclkRises_shiftBit, ih, Nat.add_comm]

/-- The bit as the spec writes it, `(v >> i) & 1` (R133). -/
theorem testBit_eq_shiftRight_mod (v i : Nat) : v.testBit i = decide ((v >>> i) % 2 = 1) := by
  rw [Nat.testBit_eq_decide_div_mod_eq, Nat.shiftRight_eq_div_pow]

/-- Settles O40: `shiftValue_eq_flatMap` and what it makes on the wire, with the bit written as a shift. -/
theorem shiftValueSendsMsbFirst : Obligations.ShiftValueSendsMsbFirst := by
  unfold Obligations.ShiftValueSendsMsbFirst
  intro b v w p hdclk hle
  obtain ⟨-, -, hevents, -⟩ := sends_shiftValue b v w p ⟨hdclk, hle⟩
  simp only [← testBit_eq_shiftRight_mod]
  exact ⟨hevents, length_shiftValue b v w, setCount_shiftValue b v w, dclkRises_shiftValue b v w, rfl,
    shiftValue_eq_flatMap b v w⟩

-- The arithmetic laws (R135)

@[simp] theorem shiftsOf_map_shift {α : Type} (l : List α) (f : α → Level) :
    shiftsOf (l.map fun x => .shift (f x)) = l.map f := by
  induction l with
  | nil => rfl
  | cons x l ih => simp [shiftsOf, ih]

@[simp] theorem bitsToNat_concat (bs : List Level) (v : Level) :
    bitsToNat (bs ++ [v]) = 2 * bitsToNat bs + v.toNat := by
  simp [bitsToNat]

/-- The low `w` bits of `v`, most significant first, are the numeral of `v mod 2^w`: the last is `v mod 2`, and those
before it are the low bits of `v / 2`. -/
theorem bitsToNat_testBits (v w : Nat) :
    bitsToNat ((List.range w).map fun i => v.testBit (w - 1 - i)) = v % 2 ^ w := by
  induction w generalizing v with
  | zero => exact (Nat.mod_one v).symm
  | succ w ih =>
    have hinit : (List.range w).map (fun i => v.testBit (w + 1 - 1 - i)) =
        (List.range w).map fun i => (v / 2).testBit (w - 1 - i) := by
      refine List.map_congr_left fun i hi => ?_
      have hlt : i < w := List.mem_range.1 hi
      have hindex : w + 1 - 1 - i = (w - 1 - i).succ := by omega
      rw [hindex, Nat.testBit_succ]
    have hlast : (v.testBit (w + 1 - 1 - w)).toNat = v % 2 := by
      rw [Nat.add_sub_cancel, Nat.sub_self, Nat.toNat_testBit, Nat.pow_zero, Nat.div_one]
    calc bitsToNat ((List.range (w + 1)).map fun i => v.testBit (w + 1 - 1 - i))
      _ = 2 * (v / 2 % 2 ^ w) + v % 2 := by
        rw [List.range_succ, List.map_append, List.map_singleton, bitsToNat_concat, hinit, ih, hlast]
      _ = v % 2 ^ (w + 1) := by rw [Nat.pow_succ', Nat.mod_mul, Nat.add_comm]

/-- `shift_value` reads only the low `w` bits of its value (R133). -/
theorem shiftValue_congr {v v' w : Nat} (h : ∀ i < w, v.testBit i = v'.testBit i) :
    shiftValue b v w = shiftValue b v' w := by
  induction w with
  | zero => rfl
  | succ w ih => rw [shiftValue, shiftValue, h w (Nat.lt_succ_self w), ih fun i hi => h i (Nat.lt_succ_of_lt hi)]

/-- Law (b) of R135. -/
theorem shiftValue_mod (v w : Nat) : shiftValue b v w = shiftValue b (v % 2 ^ w) w :=
  shiftValue_congr b fun i hi => by simp [Nat.testBit_mod_two_pow, hi]

/-- Law (c) of R135: the upper `x` bits, then the lower `y`. -/
theorem shiftValue_add (v x y : Nat) :
    shiftValue b v (x + y) = shiftValue b (v >>> y) x ++ shiftValue b (v % 2 ^ y) y := by
  induction x with
  | zero => rw [Nat.zero_add]; exact shiftValue_mod b v y
  | succ x ih =>
    have hbit : (v >>> y).testBit x = v.testBit (x + y) := by rw [Nat.testBit_shiftRight, Nat.add_comm]
    rw [Nat.succ_add, shiftValue, shiftValue, ih, hbit, List.append_assoc]

/-- Settles O41: (a) the bits sent and their numeral, (b) and (c) as above, (d) a value below 2^w is its own
remainder. -/
theorem shiftValueArithmeticLaws : Obligations.ShiftValueArithmeticLaws := by
  unfold Obligations.ShiftValueArithmeticLaws
  refine ⟨fun b v w p hdclk hle => ?_, shiftValue_mod, shiftValue_add, fun v w => ⟨rfl, fun hv => ?_⟩⟩
  · obtain ⟨-, -, hevents, -⟩ := sends_shiftValue b v w p ⟨hdclk, hle⟩
    rw [hevents, shiftsOf_map_shift, bitsToNat_testBits]
  · exact Nat.mod_eq_of_lt (Nat.lt_of_le_pred (Nat.two_pow_pos w) hv)

end Sys2Proof.Machine

/-! Proofs for the statements about the latch-enable family (42_latch_commit.md): the events, counts and duration of
`le_pulse`, the state LATCH and COMMIT leave, and that no step adds an LE window of another count. -/

namespace Sys2Proof.Machine

-- The events of `le_pulse` and their counts (R141)

section LePulse

variable (b : Build)

theorem actionEvents_dclkPulses (n : Nat) :
    actionEvents (dclkPulses b n) =
      (List.range n).flatMap fun _ => [.set .dclk true, .wait b.tBitNs, .set .dclk false, .wait b.tBitNs] := by
  induction n with
  | zero => rfl
  | succ n ih =>
    rw [dclkPulses, actionEvents_append, ih, List.range_succ_eq_map, List.flatMap_cons, List.flatMap_map]
    rfl

theorem actionEvents_lePulse (n : Nat) :
    actionEvents (lePulse b n) = [.set .dclk false, .wait b.tLeNs, .set .le true, .wait b.tLeNs] ++
      (List.range n).flatMap (fun _ => [.set .dclk true, .wait b.tBitNs, .set .dclk false, .wait b.tBitNs]) ++
      [.wait b.tLeNs, .set .le false, .wait b.tLeNs] := by
  rw [lePulse, actionEvents_append, actionEvents_append, actionEvents_dclkPulses]
  rfl

@[simp] theorem minDuration_append (es fs : List Event) : minDuration (es ++ fs) = minDuration es + minDuration fs := by
  induction es with
  | nil => exact (Nat.zero_add _).symm
  | cons e es ih => cases e <;> simp [minDuration, ih, Nat.add_assoc]

@[simp] theorem setCount_dclkPulses (n : Nat) : setCount (actionEvents (dclkPulses b n)) = 2 * n := by
  induction n with
  | zero => rfl
  | succ n ih =>
    have hone : setCount (actionEvents (pulseDclk b ++ [.wait b.tBitNs])) = 2 := rfl
    rw [dclkPulses, actionEvents_append, setCount_append, hone, ih]
    omega

@[simp] theorem dclkRises_dclkPulses (n : Nat) : dclkRises (actionEvents (dclkPulses b n)) = n := by
  induction n with
  | zero => rfl
  | succ n ih =>
    have hone : dclkRises (actionEvents (pulseDclk b ++ [.wait b.tBitNs])) = 1 := rfl
    rw [dclkPulses, actionEvents_append, dclkRises_append, hone, ih, Nat.add_comm]

@[simp] theorem minDuration_dclkPulses (n : Nat) :
    minDuration (actionEvents (dclkPulses b n)) = 2 * n * b.tBitNs := by
  induction n with
  | zero => simp [dclkPulses, actionEvents, minDuration]
  | succ n ih =>
    have hone : minDuration (actionEvents (pulseDclk b ++ [.wait b.tBitNs])) = b.tBitNs + b.tBitNs := rfl
    rw [dclkPulses, actionEvents_append, minDuration_append, hone, ih]
    ring

@[simp] theorem setCount_lePulse (n : Nat) : setCount (actionEvents (lePulse b n)) = 2 * n + 3 := by
  rw [lePulse, actionEvents_append, actionEvents_append, setCount_append, setCount_append, setCount_dclkPulses,
    Nat.add_comm (setCount _)]
  rfl

@[simp] theorem dclkRises_lePulse (n : Nat) : dclkRises (actionEvents (lePulse b n)) = n := by
  rw [lePulse, actionEvents_append, actionEvents_append, dclkRises_append, dclkRises_append, dclkRises_dclkPulses]
  exact Nat.zero_add n

@[simp] theorem minDuration_lePulse (n : Nat) :
    minDuration (actionEvents (lePulse b n)) = 4 * b.tLeNs + 2 * n * b.tBitNs := by
  rw [lePulse, actionEvents_append, actionEvents_append, minDuration_append, minDuration_append, minDuration_dclkPulses]
  simp only [actionEvents, List.map_cons, List.map_nil, Action.event, minDuration]
  ring

end LePulse

/-- Settles O42: the events and counts above, and `sends_lePulse` for the one window and the idle return. -/
theorem lePulseIsOneWindow : Obligations.LePulseIsOneWindow := by
  unfold Obligations.LePulseIsOneWindow
  intro b n p hdclk hle
  obtain ⟨_, ⟨hdclk', hle'⟩, hevents, rfl⟩ := sends_lePulse b n p ⟨hdclk, hle⟩
  exact ⟨actionEvents_lePulse b n, length_lePulse b n, setCount_lePulse b n, dclkRises_lePulse b n,
    minDuration_lePulse b n, hevents, hdclk', hle'⟩

-- LATCH and COMMIT in the running phase (R142, R143)

theorem exec_latch_running {s : State} (hw : s.build.wellFormed = true) (h : s.Running) :
    exec .latch s = .next ((s.play (lePulse s.build 1)).advance 1) := by
  obtain ⟨hi, hf⟩ := h
  obtain ⟨-, -, -, hlatch, -⟩ := Build.wellFormed_values hw
  rw [exec_latch, accept_pass hf (needsInit_done hi), hlatch]

theorem exec_commit_running {s : State} (hw : s.build.wellFormed = true) (h : s.Running) :
    exec .commit s = .next ((s.play (lePulse s.build 3)).advance 1) := by
  obtain ⟨hi, hf⟩ := h
  obtain ⟨-, -, -, -, hcommit⟩ := Build.wellFormed_values hw
  rw [exec_commit, accept_pass hf (needsInit_done hi), hcommit]

/-- Settles O14: the events and last levels of `le_pulse(1)`, and the frame of a wire-only body. -/
theorem latchCompletes : Obligations.LatchCompletes := by
  unfold Obligations.LatchCompletes
  intro s hw hrun
  exact ⟨_, exec_latch_running hw hrun, commandTrace_play s _, by simp, by simp, by simp, by simp,
    wireFrame_play s (onWire_lePulse _ _) 1⟩

/-- Settles O15: the events and last levels of `le_pulse(3)`, and the frame of a wire-only body. -/
theorem commitCompletes : Obligations.CommitCompletes := by
  unfold Obligations.CommitCompletes
  intro s hw hrun
  refine ⟨_, exec_commit_running hw hrun, ?_, by simp, by simp, by simp, by simp,
    wireFrame_play s (onWire_lePulse _ _) 1⟩
  rw [State.advance_trace, commandTrace_play, actionEvents_lePulse, List.append_assoc, List.append_assoc,
    List.append_assoc]

-- The decoding of R190 does not see the generator's events

theorem Probe.after_commandTrace (leShifts : Bool) (p : Probe) (es : List Event) :
    p.after leShifts (commandTrace es) = p.after leShifts es := by
  induction es generalizing p with
  | nil => rfl
  | cons e es ih => cases e <;> exact ih _

theorem protocolFrom_commandTrace (leShifts : Bool) (p : Probe) (es : List Event) :
    protocolFrom leShifts p (commandTrace es) = protocolFrom leShifts p es := by
  induction es generalizing p with
  | nil => rfl
  | cons e es ih =>
    cases e with
    | gclk v => exact ih p
    | _ => exact congrArg (_ ++ ·) (ih _)

-- Events that keep the pulse counts (R144)

/-- Every LE-high window held 1 or 3 DCLK pulses (R144). -/
def OneOrThree (ps : List ProtoEvent) : Prop := ∀ n ∈ pulsesOf ps, n = 1 ∨ n = 3

@[simp] theorem pulsesOf_append (ps qs : List ProtoEvent) : pulsesOf (ps ++ qs) = pulsesOf ps ++ pulsesOf qs := by
  induction ps with
  | nil => rfl
  | cons e ps ih => cases e <;> simp [pulsesOf, ih]

theorem OneOrThree.append {ps qs : List ProtoEvent} (hps : OneOrThree ps) (hqs : OneOrThree qs) :
    OneOrThree (ps ++ qs) := by
  intro n hn
  rw [pulsesOf_append, List.mem_append] at hn
  exact hn.elim (hps n) (hqs n)

theorem oneOrThree_lePulse {n : Nat} (h : n = 1 ∨ n = 3) : OneOrThree [.lePulse n] := by
  intro m hm
  rwa [List.mem_singleton.1 hm]

/-- From idle lines the events make windows of 1 or 3 pulses only, and leave the lines idle. -/
def KeepsPulses (es : List Event) : Prop :=
  ∀ p : Probe, p.Idle → (p.after false es).Idle ∧ OneOrThree (protocolFrom false p es)

theorem KeepsPulses.nil : KeepsPulses [] := fun _ hp => ⟨hp, nofun⟩

theorem KeepsPulses.append {es fs : List Event} (hes : KeepsPulses es) (hfs : KeepsPulses fs) :
    KeepsPulses (es ++ fs) := by
  intro p hp
  obtain ⟨hidle, hcounts⟩ := hes p hp
  obtain ⟨hidle', hcounts'⟩ := hfs _ hidle
  rw [Probe.after_append, protocolFrom_append]
  exact ⟨hidle', hcounts.append hcounts'⟩

theorem keepsPulses_of_sends {as : List Action} {ps : List ProtoEvent} (h : Sends as ps) (hps : OneOrThree ps) :
    KeepsPulses (actionEvents as) := by
  intro p hp
  obtain ⟨_, hidle, rfl, rfl⟩ := h p hp
  exact ⟨hidle, hps⟩

theorem keepsPulses_fault (c : Cause) : KeepsPulses [.fault c] := fun _ hp => ⟨hp, nofun⟩

theorem keepsPulses_gclkOn (hz duty : Nat) : KeepsPulses [.gclkOn hz duty] := fun _ hp => ⟨hp, nofun⟩

/-- A body of the Bus Driver is made of shifted bits, which open no window, latches and commits (R142, R143, R144). -/
theorem WireBody.keepsPulses {b : Build} {as : List Action} (h : WireBody b as) (hw : b.wellFormed = true) :
    KeepsPulses (actionEvents as) := by
  obtain ⟨-, -, -, hlatch, hcommit⟩ := Build.wellFormed_values hw
  induction h with
  | nil => exact .nil
  | shift v => exact keepsPulses_of_sends (sends_shiftBit b v) nofun
  | latch => exact keepsPulses_of_sends (sends_lePulse b _) (oneOrThree_lePulse (.inl hlatch))
  | commit => exact keepsPulses_of_sends (sends_lePulse b _) (oneOrThree_lePulse (.inr hcommit))
  | append _ _ iha ihb => rw [actionEvents_append]; exact iha.append ihb

/-- INIT brings up idle lines without a window; the windows are those of its clear (R121, R150). -/
theorem keepsPulses_initActions {b : Build} (hw : b.wellFormed = true) (n w : Nat) :
    KeepsPulses (actionEvents (initActions b n w)) := by
  rw [initActions_eq, actionEvents_append]
  exact (keepsPulses_of_sends sends_bringUp nofun).append
    ((keepsPulses_gclkOn _ _).append ((wireBody_clearBody b n w).keepsPulses hw))

-- The invariant

/-- The invariant is kept when what is appended to the command trace keeps the pulse counts. -/
theorem State.PulseInv.of_commandTrace {s t : State} (h : s.PulseInv) {es : List Event} (hes : KeepsPulses es)
    (ht : commandTrace t.trace = commandTrace s.trace ++ es) : t.PulseInv := by
  obtain ⟨hdclk, hle, hcounts⟩ := h
  obtain ⟨⟨hdclk', hle'⟩, hcounts'⟩ := hes _ ⟨hdclk, hle⟩
  have hafter : Probe.start.after false t.trace = (Probe.start.after false s.trace).after false es := by
    rw [← Probe.after_commandTrace, ht, Probe.after_append, Probe.after_commandTrace]
  have hproto : protocolTrace t.trace =
      protocolTrace s.trace ++ protocolFrom false (Probe.start.after false s.trace) es := by
    rw [protocolTrace, ← protocolFrom_commandTrace, ht, protocolFrom_append, protocolFrom_commandTrace,
      Probe.after_commandTrace]
    rfl
  have hall : OneOrThree (protocolTrace t.trace) := hproto ▸ OneOrThree.append hcounts hcounts'
  exact ⟨hafter ▸ hdclk', hafter ▸ hle', hall⟩

theorem State.PulseInv.environment {s : State} (h : s.PulseInv) : s.environment.PulseInv :=
  h.of_commandTrace .nil (by simp)

theorem State.PulseInv.raise {s : State} (h : s.PulseInv) (c : Cause) (w0 : Word) : (s.raise c w0).PulseInv :=
  h.of_commandTrace (keepsPulses_fault c) (commandTrace_append s.trace [.fault c])

theorem BodyCase.pulseInv {i : Instr} {s t : State} (h : BodyCase i s t) (hw : s.build.wellFormed = true)
    (hs : s.PulseInv) : t.PulseInv := by
  cases h with
  | wire as hwb => exact hs.of_commandTrace (hwb.keepsPulses hw) (commandTrace_play s as)
  | configured ndev width =>
    exact hs.of_commandTrace (keepsPulses_initActions hw _ _) (commandTrace_play (s.setConfig ndev width) _)
  | stored m => exact hs

/-- Settles O32, by what a step can answer. -/
theorem stepKeepsPulseCountsOneOrThree : Obligations.StepKeepsPulseCountsOneOrThree := by
  unfold Obligations.StepKeepsPulseCountsOneOrThree
  intro s t hw hs h
  rcases step_next_cases h with rfl | ⟨c, w0, rfl⟩ | ⟨i, hb⟩
  · exact hs.environment
  · exact hs.environment.raise c w0
  · exact hb.pulseInv hw hs.environment

end Sys2Proof.Machine

/-! Proofs for the statements about the frame family (43_frame_ops.md): the transmission order and the scan, the state
CLEAR, SEND_FRAME and SET_UNIFORM leave, the bodies on the wire, and what the observer shows after a frame. -/

namespace Sys2Proof

-- Lists that put pieces of one length together

/-- The `k`-th piece of a list made of pieces of length `m`. -/
theorem take_drop_flatMap {α β : Type} {l : List α} {f : α → List β} {m : Nat} (hf : ∀ x, (f x).length = m) {k : Nat}
    {x : α} (hx : l[k]? = some x) : ((l.flatMap f).drop (k * m)).take m = f x := by
  induction l generalizing k with
  | nil => simp at hx
  | cons y l ih =>
    rw [List.flatMap_cons]
    cases k with
    | zero =>
      obtain rfl : y = x := by simpa using hx
      rw [Nat.zero_mul, List.drop_zero, List.take_left' (hf y)]
    | succ k =>
      rw [Nat.succ_mul, Nat.add_comm, ← hf y, List.drop_length_add_append, hf y]
      exact ih (by simpa using hx)

/-- Entry `i` of the `k`-th piece. -/
theorem getElem?_flatMap {α β : Type} {l : List α} {f : α → List β} {m : Nat} (hf : ∀ x, (f x).length = m) {k i : Nat}
    {x : α} (hx : l[k]? = some x) (hi : i < m) : (l.flatMap f)[k * m + i]? = (f x)[i]? := by
  rw [← take_drop_flatMap hf hx, List.getElem?_take_of_lt hi, List.getElem?_drop]

theorem length_flatMap_const {α β : Type} {f : α → List β} {m : Nat} (hf : ∀ x, (f x).length = m) (l : List α) :
    (l.flatMap f).length = l.length * m := by
  simp [List.length_flatMap, hf]

-- The transmission order (R152, R153)

@[simp] theorem Build.length_sendOrder (b : Build) (n : Nat) : (b.sendOrder n).length = n * b.nch := by
  rw [Build.sendOrder, length_flatMap_const (fun d => by rw [List.length_map, b.length_channels]), List.length_reverse,
    List.length_range]

/-- Device `d` stands `n-1-d` devices from the front, and its channels in the order CH_ORDER. -/
theorem Build.getElem?_sendOrder (b : Build) {n d j : Nat} (hd : d < n) (hj : j < b.nch) :
    (b.sendOrder n)[(n - 1 - d) * b.nch + j]? = some (d, b.chOrderAt j) := by
  have hdevice : (List.range n).reverse[n - 1 - d]? = some d := by
    rw [List.getElem?_reverse (by rw [List.length_range]; omega), List.length_range, List.getElem?_range (by omega)]
    exact congrArg some (by omega)
  rw [Build.sendOrder, getElem?_flatMap (fun d => by rw [List.length_map, b.length_channels]) hdevice hj,
    List.getElem?_map, b.getElem_channels j hj]
  rfl

theorem Build.mem_sendOrder {b : Build} (hw : b.wellFormed = true) {n : Nat} {x : Nat × Nat} :
    x ∈ b.sendOrder n ↔ x.1 < n ∧ x.2 < b.nch := by
  obtain ⟨-, hch⟩ := Build.channels_bijective hw
  obtain ⟨d, c⟩ := x
  simp [Build.sendOrder, hch]

/-- Device 0 is sent last, and of its channels CH_ORDER(NCH-1). -/
theorem Build.getLast?_sendOrder {b : Build} (hw : b.wellFormed = true) {n : Nat} (hn : 0 < n) :
    (b.sendOrder n).getLast? = some (0, b.chOrderAt 15) := by
  obtain ⟨hnch, -, -, -, -⟩ := Build.wellFormed_values hw
  have hlast := b.getElem?_sendOrder hn (j := 15) (by omega)
  have hindex : (b.sendOrder n).length - 1 = (n - 1 - 0) * b.nch + 15 := by
    rw [b.length_sendOrder, hnch]
    omega
  rw [List.getLast?_eq_getElem?, hindex, hlast]

/-- The pairs in transmission order, device by device and channel by channel. -/
theorem Build.flatMap_sendOrder {b : Build} (hw : b.wellFormed = true) {α : Type} (n : Nat) (f : Nat → Nat → List α) :
    (b.sendOrder n).flatMap (fun x => f x.1 x.2) =
      (List.range n).reverse.flatMap fun d => (List.range 16).flatMap fun j => f d (b.chOrderAt j) := by
  obtain ⟨hnch, -, -, -, -⟩ := Build.wellFormed_values hw
  simp only [Build.sendOrder, Build.channels, hnch, List.flatMap_assoc, List.flatMap_map, List.map_map,
    Function.comp_def]

theorem Build.getElem?_chOrder {b : Build} (hw : b.wellFormed = true) {j : Nat} (hj : j < b.nch) :
    b.chOrder[j]? = some (b.chOrderAt j) := by
  rw [← Build.channels_eq hw, b.getElem_channels j hj]

/-- CH_ORDER takes each channel exactly once (R8). -/
theorem Build.existsUnique_chOrderAt {b : Build} (hw : b.wellFormed = true) {c : Nat} (hc : c < b.nch) :
    ∃ i, i < b.nch ∧ b.chOrderAt i = c ∧ ∀ k < b.nch, b.chOrderAt k = c → k = i := by
  obtain ⟨hnodup, hmem⟩ := Build.channels_bijective hw
  obtain ⟨i, hi⟩ := List.mem_iff_getElem?.1 ((hmem c).2 hc)
  obtain ⟨hlt, -⟩ := List.getElem?_eq_some_iff.1 hi
  rw [b.length_channels] at hlt
  rw [b.getElem_channels i hlt, Option.some_inj] at hi
  refine ⟨i, hlt, hi, fun k hk hkc => ?_⟩
  refine (List.getElem?_inj (by rwa [b.length_channels]) hnodup).1 ?_
  rw [b.getElem_channels k hk, b.getElem_channels i hlt, hkc, hi]

namespace Machine

/-- Settles O27: the transmission order above, read through FB_MAP. -/
theorem sendCellsFollowTransmissionOrder : Obligations.SendCellsFollowTransmissionOrder := by
  unfold Obligations.SendCellsFollowTransmissionOrder
  intro b n d j hw hd hj
  obtain ⟨hnch, -, -, -, -⟩ := Build.wellFormed_values hw
  rw [← hnch] at hj ⊢
  refine ⟨?_, ?_, Build.getElem?_chOrder hw hj, Build.existsUnique_chOrderAt hw hj, fun hmap =>
    Build.fbAddr_linear hmap d j⟩
  · rw [Build.sendCells, List.length_map, b.length_sendOrder]
  · rw [Build.sendCells, List.getElem?_map, b.getElem?_sendOrder hd hj]
    rfl

-- The scan (R152)

/-- Cells that hold a value in range do not end the scan: where it stops behind them decides. -/
theorem scanCells_append_of_stop {b : Build} {m : Memory} {maxv : Nat} {good as : List Nat} {r : Scan}
    (hgood : ∀ x ∈ good, x < b.cells ∧ ∃ v, m.read x = some v ∧ v ≤ maxv) (hstop : ∀ vs, r ≠ .values vs)
    (h : scanCells b m maxv as = r) : scanCells b m maxv (good ++ as) = r := by
  induction good with
  | nil => exact h
  | cons x good ih =>
    obtain ⟨hcell, v, hread, hrange⟩ := hgood x List.mem_cons_self
    have hrest := ih fun y hy => hgood y (List.mem_cons_of_mem _ hy)
    rw [List.cons_append, scanCells, if_pos hcell, hread]
    simp only [hrest, if_neg (Nat.not_lt.2 hrange)]
    cases r with
    | values vs => exact absurd rfl (hstop vs)
    | violation c => rfl
    | noCell a => rfl

/-- Settles O26: the good cells are passed over, and the three answers are those of the scan at the offending cell. -/
theorem firstOffendingCellDecides : Obligations.FirstOffendingCellDecides := by
  unfold Obligations.FirstOffendingCellDecides
  intro s good rest a hrun horder hgood
  obtain ⟨hi, hf⟩ := hrun
  have hscan {r : Scan} (hstop : ∀ vs, r ≠ .values vs)
      (h : scanCells s.build s.fb (maxValue s.cfgWidth.toNat) (a :: rest) = r) : s.sendScan = r := by
    rw [State.sendScan, horder]
    exact scanCells_append_of_stop hgood hstop h
  have hexec := exec_sendFrame hf hi
  refine ⟨fun hcell hread => ?_, fun hcell hread => ?_, fun hcell => ?_⟩
  · rw [hexec, hscan (r := .violation .unwritten) nofun (by simp [scanCells, hcell, hread])]
  · obtain ⟨v, hread, hrange⟩ := hread
    have hrange : maxValue s.cfgWidth.toNat < v := hrange
    rw [hexec, hscan (r := .violation .range) nofun (by simp [scanCells, hcell, hread, hrange])]
  · rw [hexec, hscan (r := .noCell a) nofun (by simp [scanCells, Nat.not_lt.2 hcell])]

/-- When every mapped cell holds a value in range the scan finds the values in transmission order. -/
theorem sendScan_eq_values {s : State} (hw : s.build.wellFormed = true) {val : Nat → Nat → Nat}
    (h : ∀ d < s.cfgNdev.toNat, ∀ c < 16, s.build.fbAddr d c < s.build.cells ∧
      s.fb.read (s.build.fbAddr d c) = some (val d c) ∧ val d c ≤ maxValue s.cfgWidth.toNat) :
    s.sendScan = .values ((s.build.sendOrder s.cfgNdev.toNat).map fun x => val x.1 x.2) := by
  obtain ⟨hnch, -, -, -, -⟩ := Build.wellFormed_values hw
  have hcell (x) (hx : x ∈ s.build.sendOrder s.cfgNdev.toNat) :
      s.build.fbAddr x.1 x.2 < s.build.cells ∧ s.fb.read (s.build.fbAddr x.1 x.2) = some (val x.1 x.2) ∧
        val x.1 x.2 ≤ maxValue s.cfgWidth.toNat := by
    obtain ⟨hd, hc⟩ := (Build.mem_sendOrder hw).1 hx
    exact h x.1 hd x.2 (hnch ▸ hc)
  rw [State.sendScan, Build.sendCells, scanCells_eq_values (f := fun a => (s.fb.read a).getD 0), List.map_map]
  · refine congrArg Scan.values (List.map_congr_left fun x hx => ?_)
    obtain ⟨-, hread, -⟩ := hcell x hx
    simp [hread]
  · simp only [List.forall_mem_map]
    intro x hx
    obtain ⟨hlt, hread, hrange⟩ := hcell x hx
    simpa [hread] using ⟨hlt, hrange⟩

-- CLEAR, SEND_FRAME and SET_UNIFORM in the running phase (R151, R154, R156)

theorem exec_clear_running {s : State} (h : s.Running) :
    exec .clear s = .next ((s.play (clearBody s.build s.cfgNdev.toNat s.cfgWidth.toNat)).advance 1) := by
  obtain ⟨hi, hf⟩ := h
  exact (exec_clear s).trans (accept_pass hf (needsInit_done hi))

theorem exec_sendFrame_values {s : State} (h : s.Running) {vs : List Nat} (hs : s.sendScan = .values vs) :
    exec .sendFrame s = .next ((s.play (sendBody s.build vs s.cfgWidth.toNat)).advance 1) := by
  obtain ⟨hi, hf⟩ := h
  rw [exec_sendFrame hf hi, hs]

theorem exec_setUniform_running {s : State} (h : s.Running) {value : BitVec 16}
    (hv : value.toNat ≤ maxValue s.cfgWidth.toNat) :
    exec (.setUniform value) s = .next ((s.play (sendBody s.build
      ((s.build.sendOrder s.cfgNdev.toNat).map fun _ => value.toNat) s.cfgWidth.toNat)).advance 1) := by
  obtain ⟨hi, hf⟩ := h
  have hcheck : s.needsInit.or (s.uniformCheck value.toNat) = none := by
    rw [needsInit_done hi]
    exact if_neg (Nat.not_lt.2 hv)
  exact (exec_setUniform value s).trans (accept_pass hf hcheck)

-- The events of the bodies and the level they leave on SDI (R150, R153)

/-- A repeated piece that always ends with the line at `v` leaves it at `v`. -/
theorem lastDriven_flatMap_of_ne_nil {α : Type} {ln : Line} {v : Level} {xs : List α} (hxs : xs ≠ [])
    {f : α → List Action} (h : ∀ x l, lastDriven ln l (f x) = v) (l : Level) :
    lastDriven ln l (xs.flatMap f) = v := by
  obtain ⟨x, xs, rfl⟩ := List.exists_cons_of_ne_nil hxs
  rw [List.flatMap_cons, lastDriven_append, h, lastDriven_flatMap_keeps _ _ _ _ fun y _ => h y v]

/-- The last bit of a frame is bit 0 of its last value. -/
theorem lastDriven_sendBody_sdi (b : Build) {vals : List Nat} {v w : Nat} (hv : vals.getLast? = some v) (hpos : 0 < w)
    (l : Level) : lastDriven .sdi l (sendBody b vals w) = v.testBit 0 := by
  obtain ⟨vs, rfl⟩ := List.getLast?_eq_some_iff.1 hv
  simp [sendBody, lastDriven_append, lastDriven_shiftValue_sdi, hpos.ne']

section Bodies

variable {b : Build} (hw : b.wellFormed = true)

include hw

theorem actionEvents_clearBody (n w : Nat) :
    actionEvents (clearBody b n w) =
      (List.range n).flatMap (fun _ =>
        (List.range 16).flatMap (fun _ => actionEvents (shiftValue b 0 w)) ++ actionEvents (lePulse b 1)) ++
        actionEvents (lePulse b 3) := by
  obtain ⟨hnch, -, -, hlatch, hcommit⟩ := Build.wellFormed_values hw
  simp only [clearBody, clearRound, hnch, hlatch, hcommit, actionEvents_append, actionEvents_flatMap]

theorem actionEvents_sendBody (vals : List Nat) (w : Nat) :
    actionEvents (sendBody b vals w) =
      vals.flatMap (fun v => actionEvents (shiftValue b v w)) ++ actionEvents (lePulse b 1) ++
        actionEvents (lePulse b 3) := by
  obtain ⟨-, -, -, hlatch, hcommit⟩ := Build.wellFormed_values hw
  rw [sendBody, hlatch, hcommit, actionEvents_append, actionEvents_append, actionEvents_flatMap]

theorem lastDriven_clearBody_sdi_of_pos {n w : Nat} (hn : 0 < n) (hpos : 0 < w) (l : Level) :
    lastDriven .sdi l (clearBody b n w) = false := by
  obtain ⟨hnch, -, -, -, -⟩ := Build.wellFormed_values hw
  have hvalue (l : Level) : lastDriven .sdi l (shiftValue b 0 w) = false := by
    rw [lastDriven_shiftValue_sdi, if_neg hpos.ne', Nat.zero_testBit]
  have hround (l : Level) : lastDriven .sdi l (clearRound b w) = false := by
    rw [clearRound, lastDriven_append, lastDriven_lePulse_sdi, hnch]
    exact lastDriven_flatMap_of_ne_nil (by decide) (fun _ => hvalue) l
  rw [clearBody, lastDriven_append, lastDriven_lePulse_sdi]
  exact lastDriven_flatMap_of_ne_nil (by simpa using hn.ne') (fun _ => hround) l

theorem lastDriven_frame_sdi {n w : Nat} (hn : 0 < n) (hpos : 0 < w) (val : Nat → Nat → Nat) (l : Level) :
    lastDriven .sdi l (sendBody b ((b.sendOrder n).map fun x => val x.1 x.2) w) =
      (val 0 (b.chOrderAt 15)).testBit 0 := by
  refine lastDriven_sendBody_sdi b ?_ hpos l
  rw [List.getLast?_map, Build.getLast?_sendOrder hw hn]
  rfl

end Bodies

/-- Settles O16: the events of the clear, the zero it leaves on SDI, and the frame of a wire-only body. -/
theorem clearCompletes : Obligations.ClearCompletes := by
  unfold Obligations.ClearCompletes
  intro s hw hrun
  refine ⟨_, exec_clear_running hrun, ?_, fun hn hpos => ?_, by simp, by simp, by simp,
    wireFrame_play s (onWire_clearBody _ _ _) 1⟩
  · rw [State.advance_trace, commandTrace_play, actionEvents_clearBody hw, List.append_assoc]
  · rw [State.advance_line, State.play_sdi, lastDriven_clearBody_sdi_of_pos hw hn hpos]

/-- Settles O17: the scan finds the values in transmission order, and the body sends them. -/
theorem sendFrameCompletes : Obligations.SendFrameCompletes := by
  unfold Obligations.SendFrameCompletes
  intro s val hw hrun hcells
  refine ⟨_, exec_sendFrame_values hrun (sendScan_eq_values hw hcells), ?_, fun hn hpos => ?_, by simp, by simp, by simp,
    wireFrame_play s (onWire_sendBody _ _ _) 1⟩
  · have horder := Build.flatMap_sendOrder hw s.cfgNdev.toNat fun d c =>
      actionEvents (shiftValue s.build (val d c) s.cfgWidth.toNat)
    rw [State.advance_trace, commandTrace_play, actionEvents_sendBody hw, List.flatMap_map, horder]
    simp only [List.append_assoc]
  · rw [State.advance_line, State.play_sdi, lastDriven_frame_sdi hw hn hpos]

/-- Settles O18: the body sends the value once for each pair of the transmission order. -/
theorem setUniformCompletes : Obligations.SetUniformCompletes := by
  unfold Obligations.SetUniformCompletes
  intro s value hw hrun hv
  obtain ⟨hnch, -, -, -, -⟩ := Build.wellFormed_values hw
  refine ⟨_, exec_setUniform_running hrun hv, ?_, fun hn hpos => ?_, by simp, by simp, by simp,
    wireFrame_play s (onWire_sendBody _ _ _) 1⟩
  · rw [State.advance_trace, commandTrace_play, actionEvents_sendBody hw]
    simp only [List.flatMap_def, List.map_const', List.map_replicate, List.length_range, Build.length_sendOrder, hnch,
      List.append_assoc]
  · rw [State.advance_line, State.play_sdi, lastDriven_frame_sdi hw hn hpos fun _ _ => value.toNat]

-- SEND_FRAME and SET_UNIFORM write no cell (R154, R157)

/-- Playing a body neither reads nor writes the frame buffer. -/
theorem State.play_withFb (s : State) (m : Memory) (as : List Action) :
    ({ s with fb := m } : State).play as = { s.play as with fb := m } := by
  induction as generalizing s with
  | nil => rfl
  | cons a as ih =>
    have hone : (a.perform { s with fb := m }).environment = { (a.perform s).environment with fb := m } := by
      cases a <;> rfl
    rw [State.play_cons, State.play_cons, hone, ih]

theorem accept_withFb {s t : State} (m : Memory) {w0 : Word} {v : Option Cause} {body : State → State}
    (hbody : body { s with fb := m } = { body s with fb := m }) (h : accept s w0 v body = .next t) :
    accept { s with fb := m } w0 v body = .next { t with fb := m } := by
  rcases accept_cases s w0 v body with ⟨hf, hs⟩ | ⟨c, hf, hc, hs⟩ | ⟨hf, hc, hs⟩
  · obtain rfl := Host.Outcome.next.inj (hs.symm.trans h)
    exact accept_halted (s := { s with fb := m }) hf
  · obtain rfl := Host.Outcome.next.inj (hs.symm.trans h)
    exact accept_violation (s := { s with fb := m }) hf hc
  · obtain rfl := Host.Outcome.next.inj (hs.symm.trans h)
    rw [accept_pass (s := { s with fb := m }) hf hc, hbody]

/-- SET_UNIFORM's checks and body read no cell. -/
theorem exec_setUniform_withFb {s t : State} {value : BitVec 16} (m : Memory)
    (h : exec (.setUniform value) s = .next t) :
    exec (.setUniform value) { s with fb := m } = .next { t with fb := m } := by
  rw [exec_setUniform] at h ⊢
  exact accept_withFb m (congrArg (State.advance · 1) (State.play_withFb s m _)) h

/-- SET_UNIFORM answers a next state, which has the same cells and is no fault entry for an unwritten cell: its two checks
raise CV_UNINIT or CV_RANGE. -/
theorem exec_setUniform_next (value : BitVec 16) (s : State) :
    ∃ t, exec (.setUniform value) s = .next t ∧ t.fb = s.fb ∧
      t ≠ s.raise .unwritten (Instr.setUniform value).firstWord := by
  have hcheck : s.needsInit.or (s.uniformCheck value.toNat) ≠ some .unwritten := by
    unfold State.needsInit State.uniformCheck
    split
    · split <;> nofun
    · nofun
  rw [exec_setUniform]
  rcases accept_cases s _ _ _ with ⟨-, hs⟩ | ⟨c, -, hc, hs⟩ | ⟨-, -, hs⟩
  · exact ⟨s, hs, rfl, fun h => by simpa using congrArg State.trace h⟩
  · refine ⟨_, hs, rfl, fun h => hcheck ?_⟩
    have htrace := congrArg State.trace h
    simp only [State.raise_trace, List.append_cancel_left_eq, List.cons.injEq, Event.fault.injEq, and_true] at htrace
    rw [hc, htrace]
  · exact ⟨_, hs, by simp, fun h => by simpa using congrArg State.pc h⟩

@[simp] theorem sendScan_play_advance (s : State) (as : List Action) (len : Nat) :
    ((s.play as).advance len).sendScan = s.sendScan := by
  simp [State.sendScan]

theorem State.Running.play_advance {s : State} (h : s.Running) (as : List Action) (len : Nat) :
    ((s.play as).advance len).Running := by
  obtain ⟨hi, hf⟩ := h
  exact ⟨by simpa using hi, by simpa using hf⟩

/-- After a wire command SEND_FRAME makes the events it would have made before it (R154, R157). -/
theorem exec_sendFrame_play_advance {s u : State} (h : s.Running) (as : List Action) {ev : List Event}
    (hexec : exec .sendFrame s = .next u) (hev : commandTrace u.trace = commandTrace s.trace ++ ev) :
    ∃ u', exec .sendFrame ((s.play as).advance 1) = .next u' ∧
      commandTrace u'.trace = commandTrace ((s.play as).advance 1).trace ++ ev := by
  obtain ⟨hi', hf'⟩ := h.play_advance as 1
  obtain ⟨hi, hf⟩ := h
  rw [exec_sendFrame hf hi] at hexec
  rw [exec_sendFrame hf' hi', sendScan_play_advance]
  cases hs : s.sendScan with
  | values vs =>
    rw [hs] at hexec
    obtain rfl := Host.Outcome.next.inj hexec
    obtain rfl := List.append_cancel_left ((commandTrace_play s _).symm.trans hev)
    refine ⟨_, rfl, ?_⟩
    rw [State.advance_trace, commandTrace_play]
    simp
  | violation c =>
    rw [hs] at hexec
    obtain rfl := Host.Outcome.next.inj hexec
    obtain rfl := List.append_cancel_left ((commandTrace_append s.trace [.fault c]).symm.trans hev)
    exact ⟨_, rfl, commandTrace_append _ _⟩
  | noCell a =>
    rw [hs] at hexec
    cases hexec

/-- Settles O45: (a) in every state; (b) both send the value once for each pair of the transmission order; (c) the cells
are as before, so the scan is too. -/
theorem setUniformIgnoresTheFrameBuffer : Obligations.SetUniformIgnoresTheFrameBuffer := by
  unfold Obligations.SetUniformIgnoresTheFrameBuffer
  intro s value
  obtain ⟨t, ht, hfb, hne⟩ := exec_setUniform_next value s
  refine ⟨t, ht, fun m => exec_setUniform_withFb m ht, hfb, hne, fun hw hrun hv => ?_⟩
  obtain rfl := Host.Outcome.next.inj ((exec_setUniform_running hrun hv).symm.trans ht)
  refine ⟨fun m hcells => ?_, fun u ev hexec hev => exec_sendFrame_play_advance hrun _ hexec hev⟩
  have hscan := sendScan_eq_values (s := { s with fb := m }) hw (val := fun _ _ => value.toNat) fun d hd c hc => by
    obtain ⟨hcell, hread⟩ := hcells d hd c hc
    exact ⟨hcell, hread, hv⟩
  refine ⟨_, exec_sendFrame_values (s := { s with fb := m }) hrun hscan, ?_⟩
  rw [State.advance_trace, State.advance_trace, commandTrace_play, commandTrace_play]

/-- SEND_FRAME ends without a fault only by sending the values its scan found (R154). -/
theorem sendScan_of_exec_sendFrame {s t : State} (h : s.Running) (hexec : exec .sendFrame s = .next t)
    (hok : t.faulted = false) : ∃ vs, s.sendScan = .values vs ∧
      t = (s.play (sendBody s.build vs s.cfgWidth.toNat)).advance 1 := by
  obtain ⟨hi, hf⟩ := h
  rw [exec_sendFrame hf hi] at hexec
  cases hs : s.sendScan with
  | values vs =>
    rw [hs] at hexec
    exact ⟨vs, rfl, (Host.Outcome.next.inj hexec).symm⟩
  | violation c =>
    rw [hs] at hexec
    obtain rfl := Host.Outcome.next.inj hexec
    simp at hok
  | noCell a =>
    rw [hs] at hexec
    cases hexec

/-- Settles O47: without a fault the scan found values, which the first frame leaves as they are. -/
theorem sendFrameTwiceTransmitsTheSame : Obligations.SendFrameTwiceTransmitsTheSame := by
  unfold Obligations.SendFrameTwiceTransmitsTheSame
  intro s t hrun hexec hok
  obtain ⟨vs, hs, rfl⟩ := sendScan_of_exec_sendFrame hrun hexec hok
  have hagain := exec_sendFrame_values (hrun.play_advance (sendBody s.build vs s.cfgWidth.toNat) 1)
    ((sendScan_play_advance s _ 1).trans hs)
  exact ⟨actionEvents (sendBody s.build vs s.cfgWidth.toNat), _, by simp, hagain, by simp, by simp⟩

-- The counts of the bodies (R150, R153, R250)

/-- A count of a body's primitives: that of two bodies in a row is the sum. -/
structure IsTally (μ : List Action → Nat) : Prop where
  nil : μ [] = 0
  append : ∀ as bs, μ (as ++ bs) = μ as + μ bs

/-- How often a body drives SDI to `v`. -/
def sdiWrites (v : Level) (as : List Action) : Nat := (actionEvents as).count (.set .sdi v)

theorem isTally_length : IsTally List.length := ⟨rfl, fun _ _ => List.length_append⟩

theorem isTally_setCount : IsTally fun as => setCount (actionEvents as) := ⟨rfl, fun as bs => by simp⟩

theorem isTally_dclkRises : IsTally fun as => dclkRises (actionEvents as) := ⟨rfl, fun as bs => by simp⟩

theorem isTally_minDuration : IsTally fun as => minDuration (actionEvents as) := ⟨rfl, fun as bs => by simp⟩

theorem isTally_sdiWrites (v : Level) : IsTally (sdiWrites v) := ⟨rfl, fun as bs => by simp [sdiWrites]⟩

theorem IsTally.flatMap {μ : List Action → Nat} (hμ : IsTally μ) {α : Type} {f : α → List Action} {k : Nat}
    (hf : ∀ x, μ (f x) = k) (l : List α) : μ (l.flatMap f) = l.length * k := by
  induction l with
  | nil => rw [List.flatMap_nil, hμ.nil, List.length_nil, Nat.zero_mul]
  | cons x l ih => rw [List.flatMap_cons, hμ.append, hf, ih, List.length_cons, Nat.succ_mul, Nat.add_comm]

/-- `n` rounds of sixteen zero values and a latch, and one commit. -/
theorem IsTally.clear {μ : List Action → Nat} (hμ : IsTally μ) {b : Build} (hw : b.wellFormed = true) (n w : Nat) :
    μ (clearBody b n w) = n * (16 * μ (shiftValue b 0 w) + μ (lePulse b 1)) + μ (lePulse b 3) := by
  obtain ⟨hnch, -, -, hlatch, hcommit⟩ := Build.wellFormed_values hw
  have hround : μ (clearRound b w) = 16 * μ (shiftValue b 0 w) + μ (lePulse b 1) := by
    rw [clearRound, hμ.append, hμ.flatMap fun _ => rfl, List.length_range, hnch, hlatch]
  rw [clearBody, hμ.append, hμ.flatMap fun _ => hround, List.length_range, hcommit]

/-- One value for each channel of `n` devices, a latch and a commit. -/
theorem IsTally.frame {μ : List Action → Nat} (hμ : IsTally μ) {b : Build} (hw : b.wellFormed = true) (n : Nat)
    {w k : Nat} (hk : ∀ v, μ (shiftValue b v w) = k) (f : Nat × Nat → Nat) :
    μ (sendBody b ((b.sendOrder n).map f) w) = n * 16 * k + μ (lePulse b 1) + μ (lePulse b 3) := by
  obtain ⟨hnch, -, -, hlatch, hcommit⟩ := Build.wellFormed_values hw
  rw [sendBody, hμ.append, hμ.append, hμ.flatMap hk, List.length_map, b.length_sendOrder, hnch, hlatch, hcommit]

@[simp] theorem minDuration_shiftValue (b : Build) (v w : Nat) :
    minDuration (actionEvents (shiftValue b v w)) = 2 * w * b.tBitNs := by
  induction w with
  | zero => simp [shiftValue, actionEvents, minDuration]
  | succ w ih =>
    have hone : minDuration (actionEvents (shiftBit b (v.testBit w))) = b.tBitNs + b.tBitNs := rfl
    rw [shiftValue, actionEvents_append, minDuration_append, hone, ih]
    ring

@[simp] theorem sdiWrites_lePulse (b : Build) (v : Level) (n : Nat) : sdiWrites v (lePulse b n) = 0 := by
  rw [sdiWrites, List.count_eq_zero, actionEvents_lePulse]
  simp

/-- A zero value drives SDI to 0 once for each bit, and never to 1. -/
theorem sdiWrites_shiftZero (b : Build) (v : Level) (w : Nat) : sdiWrites v (shiftValue b 0 w) = w * (!v).toNat := by
  induction w with
  | zero => simp [shiftValue, sdiWrites, actionEvents]
  | succ w ih =>
    have hone : sdiWrites v (shiftBit b false) = (!v).toNat := by cases v <;> rfl
    rw [shiftValue, Nat.zero_testBit, (isTally_sdiWrites v).append, hone, ih, Nat.succ_mul, Nat.add_comm]

theorem sdiWrites_clearBody {b : Build} (hw : b.wellFormed = true) (v : Level) (n w : Nat) :
    sdiWrites v (clearBody b n w) = n * 16 * w * (!v).toNat := by
  rw [(isTally_sdiWrites v).clear hw, sdiWrites_shiftZero, sdiWrites_lePulse, sdiWrites_lePulse]
  ring

/-- Settles O43: the protocol events as INIT's clear makes them, the counts above, and the last level on SDI. -/
theorem clearBodyShape : Obligations.ClearBodyShape := by
  unfold Obligations.ClearBodyShape
  intro b n w p hw hdclk hle
  obtain ⟨-, -, hevents, -⟩ := sends_clearBody hw n w p ⟨hdclk, hle⟩
  refine ⟨hevents, length_clearBody hw n w, ?_, ?_, ?_, ?_, ?_, fun hn hpos s => ?_, fun s m => s.play_withFb m _⟩
  · rw [isTally_setCount.clear hw, setCount_shiftValue, setCount_lePulse, setCount_lePulse]
    ring
  · rw [isTally_dclkRises.clear hw, dclkRises_shiftValue, dclkRises_lePulse, dclkRises_lePulse]
  · rw [isTally_minDuration.clear hw, minDuration_shiftValue, minDuration_lePulse, minDuration_lePulse]
    ring
  · exact (sdiWrites_clearBody hw false n w).trans (Nat.mul_one _)
  · exact List.count_eq_zero.1 (sdiWrites_clearBody hw true n w)
  · rw [State.play_sdi, lastDriven_clearBody_sdi_of_pos hw hn hpos]

-- The bits of a frame (R153)

/-- The `w` bits of a value in the order sent, most significant first (R133). -/
def valueBits (w v : Nat) : List Level := (List.range w).map fun i => v.testBit (w - 1 - i)

@[simp] theorem length_valueBits (w v : Nat) : (valueBits w v).length = w := by simp [valueBits]

theorem getElem?_valueBits {w i : Nat} (v : Nat) (hi : i < w) : (valueBits w v)[i]? = some (v.testBit (w - 1 - i)) := by
  simp [valueBits, hi]

/-- Read from its end, the bit of place `i` is bit `i` of the value. -/
theorem reverse_valueBits (w v : Nat) : (valueBits w v).reverse = (List.range w).map v.testBit := by
  refine List.ext_getElem (by simp) fun i h _ => ?_
  have hi : i < w := by simpa using h
  have hindex : w - 1 - (w - 1 - i) = i := by omega
  simp [valueBits, hindex]

/-- The bits of a frame of `n` devices in the order sent (R153). -/
def frameBits (b : Build) (n w : Nat) (val : Nat → Nat → Nat) : List Level :=
  (b.sendOrder n).flatMap fun x => valueBits w (val x.1 x.2)

theorem length_frameBits {b : Build} (hw : b.wellFormed = true) (n w : Nat) (val : Nat → Nat → Nat) :
    (frameBits b n w val).length = n * 16 * w := by
  obtain ⟨hnch, -, -, -, -⟩ := Build.wellFormed_values hw
  rw [frameBits, length_flatMap_const fun _ => length_valueBits w _, b.length_sendOrder, hnch]

theorem sends_frame {b : Build} (hw : b.wellFormed = true) (n w : Nat) (val : Nat → Nat → Nat) :
    Sends (sendBody b ((b.sendOrder n).map fun x => val x.1 x.2) w)
      ((frameBits b n w val).map .shift ++ [.lePulse 1, .lePulse 3]) := by
  obtain ⟨-, -, -, hlatch, hcommit⟩ := Build.wellFormed_values hw
  have hvalues : (frameBits b n w val).map .shift = ((b.sendOrder n).map fun x => val x.1 x.2).flatMap
      fun v => (List.range w).map fun i => ProtoEvent.shift (v.testBit (w - 1 - i)) := by
    simp only [frameBits, valueBits, List.map_flatMap, List.flatMap_map, List.map_map, Function.comp_def]
  rw [sendBody, hlatch, hcommit, hvalues, List.append_assoc]
  exact (Sends.flatMap fun v _ => sends_shiftValue b v w).append ((sends_lePulse b 1).append (sends_lePulse b 3))

/-- Settles O44: the bits of the frame by place in the transmission order, and the counts above. -/
theorem sendBodyBitOrder : Obligations.SendBodyBitOrder := by
  unfold Obligations.SendBodyBitOrder
  intro b n w val p hw hdclk hle
  obtain ⟨hnch, -, -, -, -⟩ := Build.wellFormed_values hw
  obtain ⟨-, -, hevents, -⟩ := sends_frame hw n w val p ⟨hdclk, hle⟩
  refine ⟨frameBits b n w val, hevents, length_frameBits hw n w val, fun d i j hd hi hj => ?_, ?_, ?_, ?_, by decide⟩
  · have hpair := b.getElem?_sendOrder hd (hnch ▸ hj)
    rw [hnch] at hpair
    rw [frameBits, getElem?_flatMap (fun _ => length_valueBits w _) hpair hi, getElem?_valueBits _ hi]
  · rw [isTally_length.frame hw n fun v => length_shiftValue b v w, length_lePulse, length_lePulse]
    ring
  · rw [isTally_setCount.frame hw n fun v => setCount_shiftValue b v w, setCount_lePulse, setCount_lePulse]
    ring
  · rw [isTally_minDuration.frame hw n fun v => minDuration_shiftValue b v w, minDuration_lePulse, minDuration_lePulse]
    ring

-- The observer (R193)

theorem Chain.run_append (c : Chain) (ps qs : List ProtoEvent) : c.run (ps ++ qs) = (c.run ps).bind (·.run qs) := by
  induction ps generalizing c with
  | nil => rfl
  | cons e ps ih =>
    rw [List.cons_append, Chain.run, Chain.run]
    cases c.observe e with
    | none => rfl
    | some c' => exact ih c'

/-- Shifted bits enter at the near end, the last one nearest, and push as many out at the far end. -/
theorem Chain.run_shifts (c : Chain) (bits : List Level) :
    c.run (bits.map .shift) = some { c with sr := (bits.reverse.map some ++ c.sr).take c.sr.length } := by
  induction bits generalizing c with
  | nil => simp [Chain.run]
  | cons v bits ih =>
    have hlength : ((some v :: c.sr).take c.sr.length).length = c.sr.length := by simp
    have hinner (xs ys : List (Option Level)) (m : Nat) : (xs ++ ys.take m).take m = (xs ++ ys).take m := by
      simp [List.take_append, List.take_take]
    refine (ih { c with sr := (some v :: c.sr).take c.sr.length }).trans ?_
    rw [hlength, hinner, List.reverse_cons, List.map_append, List.append_assoc]
    rfl

/-- A full chain of bits, a latch and a commit put the bits everywhere, whatever the chain held. -/
theorem Chain.run_frame (c : Chain) {bits : List Level} (h : c.sr.length = bits.length) :
    c.run (bits.map .shift ++ [.lePulse 1, .lePulse 3]) =
      some { sr := bits.reverse.map some, hold := bits.reverse.map some, out := bits.reverse.map some } := by
  have hfull : (bits.reverse.map some ++ c.sr).take c.sr.length = bits.reverse.map some :=
    List.take_left' (by simp [h])
  rw [Chain.run_append, Chain.run_shifts, hfull]
  rfl

/-- The low `w` bits of `v`, least significant first, read as a word (R192). -/
theorem wordOfBits_testBits (v w : Nat) :
    wordOfBits ((List.range w).map fun i => some (v.testBit i)) = some (v % 2 ^ w) := by
  induction w generalizing v with
  | zero => simp [wordOfBits, Nat.mod_one]
  | succ w ih =>
    rw [List.range_succ_eq_map, List.map_cons, List.map_map]
    have htail : (fun i => some (v.testBit i)) ∘ Nat.succ = fun i => some ((v / 2).testBit i) := by
      funext i
      exact congrArg some (Nat.testBit_succ v i)
    rw [htail, wordOfBits, ih, Nat.pow_succ', Nat.mod_mul, Nat.toNat_testBit]
    simp

/-- The frame at rest in the chain: place `15-j` of device `d` holds the value sent for CH_ORDER(j) (R155). -/
theorem chainWord_frameBits {b : Build} (hw : b.wellFormed = true) {n w : Nat} {val : Nat → Nat → Nat} {d j : Nat}
    (hd : d < n) (hj : j < 16) :
    chainWord b ((frameBits b n w val).reverse.map some) w d (15 - j) = some (val d (b.chOrderAt j) % 2 ^ w) := by
  obtain ⟨hnch, -, -, -, -⟩ := Build.wellFormed_values hw
  have hpair : (b.sendOrder n).reverse[d * 16 + (15 - j)]? = some (d, b.chOrderAt j) := by
    rw [List.getElem?_reverse (by rw [b.length_sendOrder, hnch]; omega), ← b.getElem?_sendOrder hd (hnch ▸ hj),
      b.length_sendOrder, hnch]
    exact congrArg _ (by omega)
  have hbits : (frameBits b n w val).reverse.map some = (b.sendOrder n).reverse.flatMap fun x =>
      (List.range w).map fun i => some ((val x.1 x.2).testBit i) := by
    simp only [frameBits, List.reverse_flatMap, List.map_flatMap, Function.comp_def, reverse_valueBits, List.map_map]
  rw [chainWord, hnch, hbits, take_drop_flatMap (by simp) hpair, wordOfBits_testBits]

/-- Settles O50: the frame fills the chain, and values below 2^w are their own low `w` bits. -/
theorem observerShowsTheFrame : Obligations.ObserverShowsTheFrame := by
  unfold Obligations.ObserverShowsTheFrame
  intro b n w val c p hw hdclk hle hlen hval
  obtain ⟨hnch, -, -, -, -⟩ := Build.wellFormed_values hw
  obtain ⟨-, -, hevents, -⟩ := sends_frame hw n w val p ⟨hdclk, hle⟩
  rw [hevents, Chain.run_frame c (hlen.trans (length_frameBits hw n w val).symm)]
  refine ⟨_, rfl, rfl, rfl, fun d j hd hj => ?_⟩
  have hch : b.chOrderAt j < 16 := hnch ▸ Build.chOrderAt_lt hw (hnch ▸ hj)
  rw [chainWord_frameBits hw hd hj, Nat.mod_eq_of_lt (hval d hd _ hch)]

end Machine

end Sys2Proof

/-! Proofs for the statements about the frame buffer (44_framebuffer.md): the cells FB_FILL and FB_CLEAR write, and the
checks of a pixel's position and of a uniform value's range. -/

namespace Sys2Proof.Machine

/-- FB_FILL's loops write no address outside the grid (R167). -/
theorem Memory.read_fill_outside (m : Memory) {build : Build} (hs : build.slots = 4) (r g b w : Nat) {a : Nat}
    (ha : build.cells ≤ a) : (m.fill build r g b w).read a = m.read a := by
  refine Memory.fill_induction (fun m' => m'.read a = m.read a) m build r g b w rfl fun m' row col hr hc ih => ?_
  have hbelow : build.pixelBase row col + 4 ≤ a := (Build.pixelBase_lt build row col hs hr hc).trans ha
  exact (m'.read_writePixel_other _ a r g b w (.inr hbelow)).trans ih

/-- Settles O21: FB_FILL has no check to fail, and its body is the fill. -/
theorem fbFillCompletes : Obligations.FbFillCompletes := by
  unfold Obligations.FbFillCompletes
  intro s r g b w hw hf
  obtain ⟨-, hslots, -, -, -⟩ := Build.wellFormed_values hw
  exact ⟨_, (exec_fbFill r g b w s).trans (accept_pass hf rfl),
    fun _ hr _ hc => s.fb.shows_fill hslots r.toNat g.toNat b.toNat w.toNat hr hc,
    fun _ ha => s.fb.read_fill_outside hslots _ _ _ _ ha, rfl⟩

/-- Settles O22: FB_CLEAR's body is the fill in the one value 0. -/
theorem fbClearCompletes : Obligations.FbClearCompletes := by
  unfold Obligations.FbClearCompletes
  intro s hw hf
  obtain ⟨-, hslots, -, -, -⟩ := Build.wellFormed_values hw
  exact ⟨_, (exec_fbClear s).trans (accept_pass hf rfl), fun _ ha => s.fb.read_fill_uniform hw 0 ha,
    fun _ ha => s.fb.read_fill_outside hslots _ _ _ _ ha, rfl⟩

/-- A pixel with a row or a column outside the grid fails check 3 of FB_SET_PIXEL (R166, R206). -/
theorem State.indexCheck_outside {s : State} {row col : Nat} (h : s.build.rows ≤ row ∨ s.build.cols ≤ col) :
    s.indexCheck row col = some .index := by
  have hout : ¬ (row < s.build.rows ∧ col < s.build.cols) := by omega
  exact if_neg hout

/-- A value above MAXV fails SET_UNIFORM's own check (R156). -/
theorem State.uniformCheck_above {s : State} {v : Nat} (h : 2 ^ s.cfgWidth.toNat - 1 < v) :
    s.uniformCheck v = some .range := if_pos h

/-- Settles O25: the index check is FB_SET_PIXEL's only one, and INIT_DONE leaves SET_UNIFORM its range check. -/
theorem indexAndUniformRangeFault : Obligations.IndexAndUniformRangeFault := by
  unfold Obligations.IndexAndUniformRangeFault
  refine ⟨fun s row col r g b w hf hout => ?_, fun s value hrun hv => ?_⟩
  · exact (exec_fbSetPixel row col r g b w s).trans (accept_violation hf (State.indexCheck_outside hout))
  · obtain ⟨hi, hf⟩ := hrun
    have hcheck : s.needsInit.or (s.uniformCheck value.toNat) = some .range := by
      rw [needsInit_done hi, Option.none_or, State.uniformCheck_above hv]
    exact (exec_setUniform value s).trans (accept_violation hf hcheck)

end Sys2Proof.Machine

/-! Proofs for the statements about the host's pseudo-instructions (45_sequencer.md): the levels of PULSE, the phases of
CHECKER, and the frame OFF transmits. -/

namespace Sys2Proof.Machine

-- PULSE (R179)

/-- A loop that goes up to `maxv` by `step` has K = `maxv ⌈/⌉ step` rounds: it is below the top after fewer only. -/
theorem lt_ceilDiv_iff_mul_lt {maxv step : Nat} (hstep : 0 < step) (k : Nat) :
    k < maxv ⌈/⌉ step ↔ k * step < maxv := by
  rw [← Nat.not_le, ceilDiv_le_iff_le_mul hstep, Nat.mul_comm, Nat.not_le]

/-- The loop up, entered after `j` rounds with `n` to go. -/
theorem pulseRise_eq {maxv step : Nat} (hstep : 0 < step) {n fuel j : Nat} (hrounds : j + n = maxv ⌈/⌉ step)
    (hfuel : n ≤ fuel) : pulseRise maxv step fuel (min (j * step) maxv) =
      (List.range' (j + 1) n).map fun k => min (k * step) maxv := by
  induction n generalizing fuel j with
  | zero =>
    have htop : ¬ j * step < maxv := (lt_ceilDiv_iff_mul_lt hstep j).not.1 (by omega)
    cases fuel with
    | zero => rfl
    | succ fuel => exact if_neg (by omega)
  | succ n ih =>
    obtain ⟨fuel, rfl⟩ := Nat.exists_eq_add_one.2 (Nat.zero_lt_of_lt hfuel)
    have hbelow : j * step < maxv := (lt_ceilDiv_iff_mul_lt hstep j).1 (by omega)
    have hnext : min (min (j * step) maxv + step) maxv = min ((j + 1) * step) maxv := by
      rw [Nat.succ_mul]
      omega
    rw [pulseRise, if_pos (by omega), hnext, List.range'_succ, List.map_cons, ih (by omega) (by omega)]

/-- The way down mirrors the way up. -/
theorem pulseFall_eq_map_pulseRise {maxv step l : Nat} (fuel : Nat) (hl : l ≤ maxv) :
    pulseFall step fuel l = (pulseRise maxv step fuel (maxv - l)).map (maxv - ·) := by
  induction fuel generalizing l with
  | zero => rfl
  | succ fuel ih =>
    rw [pulseFall, pulseRise]
    by_cases hpos : 0 < l
    · have hnext : min (maxv - l + step) maxv = maxv - (l - step) := by omega
      have hlevel : maxv - (maxv - (l - step)) = l - step := by omega
      rw [if_pos hpos, if_pos (by omega), hnext, List.map_cons, hlevel, ih (by omega)]
    · rw [if_neg hpos, if_neg (by omega), List.map_nil]

/-- R179's loops in closed form: the levels 0 to K of the way up, then the levels 1 to K of the way down. -/
theorem pulseLevels_eq {maxv step : Nat} (hstep : 0 < step) :
    pulseLevels maxv step = (List.range (maxv ⌈/⌉ step + 1)).map (fun k => min (k * step) maxv) ++
      (List.range' 1 (maxv ⌈/⌉ step)).map fun k => maxv - k * step := by
  have hfuel : maxv ⌈/⌉ step ≤ maxv := (ceilDiv_le_iff_le_mul hstep).2 (Nat.le_mul_of_pos_left maxv hstep)
  have hrise : pulseRise maxv step maxv 0 = (List.range' 1 (maxv ⌈/⌉ step)).map fun k => min (k * step) maxv := by
    simpa using pulseRise_eq hstep (j := 0) (Nat.zero_add _) hfuel
  have hmirror : ((maxv - ·) ∘ fun k => min (k * step) maxv) = fun k => maxv - k * step :=
    funext fun k => show maxv - min (k * step) maxv = maxv - k * step by omega
  rw [pulseLevels, pulseFall_eq_map_pulseRise maxv le_rfl, Nat.sub_self, hrise, List.map_map, hmirror,
    List.range_eq_range', List.range'_succ, List.map_cons, Nat.zero_mul, Nat.zero_min]

theorem length_pulseLevels {maxv step : Nat} (hstep : 0 < step) :
    (pulseLevels maxv step).length = 2 * (maxv ⌈/⌉ step) + 1 := by
  rw [pulseLevels_eq hstep, List.length_append, List.length_map, List.length_map, List.length_range, List.length_range']
  omega

theorem getElem?_pulseLevels_rise {maxv step k : Nat} (hstep : 0 < step) (hk : k ≤ maxv ⌈/⌉ step) :
    (pulseLevels maxv step)[k]? = some (min (k * step) maxv) := by
  rw [pulseLevels_eq hstep, List.getElem?_append_left (by simpa using Nat.lt_succ_of_le hk), List.getElem?_map,
    List.getElem?_range (Nat.lt_succ_of_le hk)]
  rfl

/-- Entry K is both the last level up and the one the way down starts from. -/
theorem getElem?_pulseLevels_fall {maxv step k : Nat} (hstep : 0 < step) (hk : k ≤ maxv ⌈/⌉ step) :
    (pulseLevels maxv step)[maxv ⌈/⌉ step + k]? = some (maxv - k * step) := by
  cases k with
  | zero =>
    have htop := lt_ceilDiv_iff_mul_lt (maxv := maxv) hstep (maxv ⌈/⌉ step)
    rw [Nat.add_zero, getElem?_pulseLevels_rise hstep le_rfl]
    exact congrArg some (by omega)
  | succ k =>
    rw [pulseLevels_eq hstep, List.getElem?_append_right (by simp), List.length_map, List.length_range,
      Nat.add_comm k 1, ← Nat.add_assoc, Nat.add_sub_cancel_left, List.getElem?_map, List.getElem?_range' hk]
    simp

/-- Settles O52: the levels of R179's loops, and their frames by definition. -/
theorem pulseLevelsRiseAndFall : Obligations.PulseLevelsRiseAndFall := by
  unfold Obligations.PulseLevelsRiseAndFall
  intro Freq pulseStep pulseDelay f maxv hstep _
  rw [← Nat.ceilDiv_eq_add_pred_div]
  exact ⟨pulseLevels maxv (pulseStep f), rfl, length_pulseLevels hstep, fun k hk =>
    ⟨getElem?_pulseLevels_rise hstep hk, getElem?_pulseLevels_fall hstep hk⟩⟩

-- CHECKER (R178)

/-- The FB_SET_PIXEL commands of one phase, in row-major order. -/
def checkerWrites (build : Build) (even odd : Color) : List HostItem :=
  (List.range build.rows).flatMap fun row =>
    (List.range build.cols).map fun col => setPixelItem row col (checkerColor even odd row col)

theorem checkerPhase_eq (build : Build) (even odd : Color) (t : Nat) :
    checkerPhase build even odd t = checkerWrites build even odd ++ [.cmd .sendFrame, .delay t] := rfl

theorem length_checkerWrites (build : Build) (even odd : Color) :
    (checkerWrites build even odd).length = build.rows * build.cols := by
  rw [checkerWrites, length_flatMap_const (fun row => by rw [List.length_map, List.length_range]), List.length_range]

theorem getElem?_checkerWrites {build : Build} (even odd : Color) {row col : Nat} (hr : row < build.rows)
    (hc : col < build.cols) :
    (checkerWrites build even odd)[row * build.cols + col]? =
      some (if (row + col) % 2 = 0 then setPixelItem row col even else setPixelItem row col odd) := by
  rw [checkerWrites, getElem?_flatMap (fun row => by rw [List.length_map, List.length_range])
    (List.getElem?_range hr) hc, List.getElem?_map, List.getElem?_range hc]
  exact congrArg some (apply_ite (setPixelItem row col) ..)

/-- Settles O53: the second phase is the first with the two colours exchanged. -/
theorem checkerPhasesAreSwapped : Obligations.CheckerPhasesAreSwapped := by
  unfold Obligations.CheckerPhasesAreSwapped
  intro build a b t
  refine ⟨checkerWrites build a b, checkerWrites build b a, ?_, length_checkerWrites build a b,
    length_checkerWrites build b a, fun row hr col hc =>
      ⟨getElem?_checkerWrites a b hr hc, getElem?_checkerWrites b a hr hc⟩⟩
  rw [hostChecker, checkerPhase_eq, checkerPhase_eq]

-- OFF (R177)

/-- FB_CLEAR in a state that is not halted is the fill in the value 0 (R168). -/
theorem exec_fbClear_not_halted {s : State} (hf : s.faulted = false) :
    exec .fbClear s = .next ((s.fillWith 0 0 0 0).advance 1) :=
  (exec_fbClear s).trans (accept_pass hf rfl)

/-- Settles O54: after FB_CLEAR SEND_FRAME's scan finds the value 0 for every pair of the transmission order, which is
what SET_UNIFORM 0 sends. -/
theorem offTransmitsAllZero : Obligations.OffTransmitsAllZero := by
  unfold Obligations.OffTransmitsAllZero
  intro s tOff hw hrun hs
  have hzero : (0 : BitVec 16).toNat ≤ maxValue s.cfgWidth.toNat := Nat.zero_le _
  obtain ⟨hi, hf⟩ := hrun
  have hcleared : ((s.fillWith 0 0 0 0).advance 1).Running := ⟨by simpa using hi, by simpa using hf⟩
  have hscan : ((s.fillWith 0 0 0 0).advance 1).sendScan =
      .values ((s.build.sendOrder s.cfgNdev.toNat).map fun _ => 0) := sendScan_fill_uniform hw hs hi hzero
  refine ⟨rfl, _, _, _, exec_fbClear_not_halted hf, exec_sendFrame_values hcleared hscan,
    exec_setUniform_running ⟨hi, hf⟩ hzero, ?_, ?_⟩
  · simpa using hf
  · rw [State.advance_trace, State.advance_trace, commandTrace_play, commandTrace_play]
    rfl

end Sys2Proof.Machine

/-! Proofs for the statements about the wire and the receiver (46_receiver_model.md): every step keeps the orderings and
distances on the wire, and what a clear and the raw commands do to the reference observer. -/

namespace Sys2Proof.Machine

-- What the wire's monitor answers to one event (R191, R240, R241, R247)

section Monitor

variable {b : Build}

theorem Wire.run_cons {x y : Wire} {e : Event} (h : x.step b e = some y) (es : List Event) :
    x.run b (e :: es) = y.run b es := by
  rw [Wire.run, h]

theorem Wire.run_append (x : Wire) (es fs : List Event) : x.run b (es ++ fs) = (x.run b es).bind (·.run b fs) := by
  induction es generalizing x with
  | nil => rfl
  | cons e es ih =>
    cases h : x.step b e with
    | none => simp [Wire.run, h]
    | some y => rw [List.cons_append, Wire.run_cons h, Wire.run_cons h, ih]

/-- The monitor does not see the generator's events. -/
theorem Wire.run_commandTrace (x : Wire) (es : List Event) : x.run b (commandTrace es) = x.run b es := by
  induction es generalizing x with
  | nil => rfl
  | cons e es ih =>
    cases e with
    | gclk v => exact ih x
    | _ =>
      rw [commandTrace, List.filter_cons_of_pos rfl, Wire.run, Wire.run]
      split
      · rfl
      · exact ih _

theorem Wire.step_wait (x : Wire) (ns : Nat) : x.step b (.wait ns) =
    some { x with sinceSdi := x.sinceSdi + ns, sinceDclk := x.sinceDclk + ns, sinceLe := x.sinceLe + ns } := rfl

theorem Wire.step_gclk (x : Wire) (v : Level) : x.step b (.set .gclk v) = some x := rfl

theorem Wire.step_sdi {x : Wire} (hdclk : x.dclk = false) (hle : x.le = false) (v : Level) :
    x.step b (.set .sdi v) = some { x with sinceSdi := 0 } := by
  simp [Wire.step, Wire.onSet, hdclk, hle]

theorem Wire.step_dclk_rises {x : Wire} (hdclk : x.dclk = false) (hsdi : b.tBitNs ≤ x.sinceSdi)
    (hedge : b.tBitNs ≤ x.sinceDclk) (hle : b.tLeNs ≤ x.sinceLe) :
    x.step b (.set .dclk true) = some { x with dclk := true, sinceDclk := 0 } := by
  simp [Wire.step, Wire.onSet, hdclk, hsdi, hedge, hle]

theorem Wire.step_dclk_falls {x : Wire} (hdclk : x.dclk = true) (hedge : b.tBitNs ≤ x.sinceDclk) :
    x.step b (.set .dclk false) = some { x with dclk := false, sinceDclk := 0 } := by
  simp [Wire.step, Wire.onSet, hdclk, hedge]

theorem Wire.step_dclk_stays {x : Wire} {v : Level} (hdclk : x.dclk = v) : x.step b (.set .dclk v) = some x := by
  simp [Wire.step, Wire.onSet, hdclk]

theorem Wire.step_le_changes {x : Wire} {v : Level} (hle : x.le = !v) (hdclk : x.dclk = false)
    (hedge : b.tLeNs ≤ x.sinceDclk) : x.step b (.set .le v) = some { x with le := v, sinceLe := 0 } := by
  simp [Wire.step, Wire.onSet, hle, hdclk, hedge]

theorem Wire.step_le_stays {x : Wire} {v : Level} (hle : x.le = v) : x.step b (.set .le v) = some x := by
  simp [Wire.step, Wire.onSet, hle]

end Monitor

-- Events that take the monitor from one condition to another

/-- Between two commands: both lines idle, LE settled (R22, R241). -/
structure Wire.Settled (b : Build) (x : Wire) : Prop where
  dclk : x.dclk = false
  le : x.le = false
  sinceLe : b.tLeNs ≤ x.sinceLe

theorem Wire.settled_iff {b : Build} {x : Wire} :
    x.Settled b ↔ x.dclk = false ∧ x.le = false ∧ b.tLeNs ≤ x.sinceLe :=
  ⟨fun ⟨hdclk, hle, hsince⟩ => ⟨hdclk, hle, hsince⟩, fun ⟨hdclk, hle, hsince⟩ => ⟨hdclk, hle, hsince⟩⟩

/-- Inside an LE-high window, ready for the next DCLK pulse (R141). -/
structure Wire.WindowReady (b : Build) (x : Wire) : Prop where
  dclk : x.dclk = false
  le : x.le = true
  sinceSdi : b.tBitNs ≤ x.sinceSdi
  sinceDclk : b.tBitNs ≤ x.sinceDclk
  sinceLe : b.tLeNs ≤ x.sinceLe

/-- The monitor accepts the events and ends in a condition of `Q`. -/
def Wire.Reaches (b : Build) (x : Wire) (es : List Event) (Q : Wire → Prop) : Prop := ∃ y, x.run b es = some y ∧ Q y

/-- From every condition of `P` the events lead to one of `Q`. -/
def WireTakes (b : Build) (P : Wire → Prop) (es : List Event) (Q : Wire → Prop) : Prop :=
  ∀ x : Wire, P x → x.Reaches b es Q

/-- The events keep the monitor accepting from one settled condition to the next. -/
def KeepsWire (b : Build) (es : List Event) : Prop := WireTakes b (Wire.Settled b) es (Wire.Settled b)

section Triples

variable {b : Build} {P Q R : Wire → Prop}

theorem Wire.Reaches.nil {x : Wire} (hx : Q x) : x.Reaches b [] Q := ⟨x, rfl, hx⟩

theorem Wire.Reaches.cons {x y : Wire} {e : Event} {es : List Event} (he : x.step b e = some y)
    (hes : y.Reaches b es Q) : x.Reaches b (e :: es) Q := by
  rwa [Wire.Reaches, Wire.run_cons he]

theorem Wire.Reaches.append {x : Wire} {es fs : List Event} (hes : x.Reaches b es Q) (hfs : WireTakes b Q fs R) :
    x.Reaches b (es ++ fs) R := by
  obtain ⟨y, hxy, hy⟩ := hes
  rw [Wire.Reaches, Wire.run_append, hxy]
  exact hfs y hy

theorem Wire.reaches_commandTrace {x : Wire} {es : List Event} :
    x.Reaches b (commandTrace es) Q ↔ x.Reaches b es Q := by
  rw [Wire.Reaches, Wire.run_commandTrace, Wire.Reaches]

theorem WireTakes.nil : WireTakes b P [] P := fun _ => .nil

theorem WireTakes.append {es fs : List Event} (hes : WireTakes b P es Q) (hfs : WireTakes b Q fs R) :
    WireTakes b P (es ++ fs) R := fun x hx => (hes x hx).append hfs

end Triples

-- The primitives and the bodies made of them (R131, R141)

section Primitives

variable {b : Build}

/-- A shifted bit asks for no distance but its own waits and a settled LE (R131). -/
theorem keepsWire_shiftBit (v : Level) : KeepsWire b (actionEvents (shiftBit b v)) := by
  intro x ⟨hdclk, hle, hsince⟩
  exact
    .cons (Wire.step_sdi hdclk hle v) <|
    .cons (Wire.step_wait _ _) <|
    .cons (Wire.step_dclk_rises hdclk (Nat.le_add_left _ _) (Nat.le_add_left _ _)
      (Nat.le_add_right_of_le hsince)) <|
    .cons (Wire.step_wait _ _) <|
    .cons (Wire.step_dclk_falls rfl (Nat.le_add_left _ _)) <|
    .nil ⟨rfl, hle, Nat.le_add_right_of_le (Nat.le_add_right_of_le hsince)⟩

/-- Raising LE, then T_LE_NS twice: with T_BIT_NS at most T_LE_NS the data is settled too (R141). -/
theorem wireTakes_raiseLe (hT : b.tBitNs ≤ b.tLeNs) :
    WireTakes b (Wire.Settled b) [.set .dclk false, .wait b.tLeNs, .set .le true, .wait b.tLeNs]
      (Wire.WindowReady b) := by
  intro x ⟨hdclk, hle, _⟩
  have hsettled (n : Nat) : b.tBitNs ≤ n + b.tLeNs := hT.trans (Nat.le_add_left _ _)
  exact
    .cons (Wire.step_dclk_stays hdclk) <|
    .cons (Wire.step_wait _ _) <|
    .cons (Wire.step_le_changes hle hdclk (Nat.le_add_left _ _)) <|
    .cons (Wire.step_wait _ _) <|
    .nil ⟨hdclk, rfl, hsettled _, hsettled _, Nat.le_add_left _ _⟩

theorem wireTakes_pulse :
    WireTakes b (Wire.WindowReady b) [.set .dclk true, .wait b.tBitNs, .set .dclk false, .wait b.tBitNs]
      (Wire.WindowReady b) := by
  intro x ⟨hdclk, hle, hsdi, hedge, hsince⟩
  exact
    .cons (Wire.step_dclk_rises hdclk hsdi hedge hsince) <|
    .cons (Wire.step_wait _ _) <|
    .cons (Wire.step_dclk_falls rfl (Nat.le_add_left _ _)) <|
    .cons (Wire.step_wait _ _) <|
    .nil ⟨rfl, hle, Nat.le_add_left _ _, Nat.le_add_left _ _, Nat.le_add_right_of_le (Nat.le_add_right_of_le hsince)⟩

theorem wireTakes_dclkPulses (n : Nat) :
    WireTakes b (Wire.WindowReady b) (actionEvents (dclkPulses b n)) (Wire.WindowReady b) := by
  induction n with
  | zero => exact .nil
  | succ n ih => exact wireTakes_pulse.append ih

theorem wireTakes_lowerLe :
    WireTakes b (Wire.WindowReady b) [.wait b.tLeNs, .set .le false, .wait b.tLeNs] (Wire.Settled b) := by
  intro x ⟨hdclk, hle, _, _, _⟩
  exact
    .cons (Wire.step_wait _ _) <|
    .cons (Wire.step_le_changes hle hdclk (Nat.le_add_left _ _)) <|
    .cons (Wire.step_wait _ _) <|
    .nil ⟨hdclk, rfl, Nat.le_add_left _ _⟩

theorem keepsWire_lePulse (hT : b.tBitNs ≤ b.tLeNs) (n : Nat) : KeepsWire b (actionEvents (lePulse b n)) := by
  rw [lePulse, actionEvents_append, actionEvents_append]
  exact ((wireTakes_raiseLe hT).append (wireTakes_dclkPulses n)).append wireTakes_lowerLe

theorem WireBody.keepsWire {as : List Action} (h : WireBody b as) (hT : b.tBitNs ≤ b.tLeNs) :
    KeepsWire b (actionEvents as) := by
  induction h with
  | nil => exact WireTakes.nil
  | shift v => exact keepsWire_shiftBit v
  | latch => exact keepsWire_lePulse hT _
  | commit => exact keepsWire_lePulse hT _
  | append _ _ iha ihb => rw [actionEvents_append]; exact WireTakes.append iha ihb

/-- INIT's directions are no business of the monitor, and it drives the idle levels onto idle lines: no edge is made
before its clear (R121). -/
theorem keepsWire_bringUp : KeepsWire b (actionEvents bringUp) := by
  intro x ⟨hdclk, hle, hsince⟩
  exact
    .cons rfl <| .cons rfl <| .cons rfl <| .cons rfl <| .cons rfl <|
    .cons (Wire.step_sdi hdclk hle false) <|
    .cons (Wire.step_dclk_stays hdclk) <|
    .cons (Wire.step_gclk _ _) <|
    .cons (Wire.step_le_stays hle) <|
    .nil ⟨hdclk, hle, hsince⟩

theorem keepsWire_initActions (hT : b.tBitNs ≤ b.tLeNs) (n w : Nat) :
    KeepsWire b (actionEvents (initActions b n w)) := by
  have hstart : KeepsWire b [.gclkOn b.gclkHz b.gclkDutyPct] := fun _ hx => .cons rfl (.nil hx)
  rw [initActions_eq, actionEvents_append]
  exact keepsWire_bringUp.append (hstart.append ((wireBody_clearBody b n w).keepsWire hT))

end Primitives

-- The invariant

theorem State.wireInv_iff {s : State} :
    s.WireInv ↔ (Wire.start s.build).Reaches s.build s.trace (Wire.Settled s.build) := by
  simp only [State.WireInv, Wire.Reaches, Wire.settled_iff]

/-- The invariant is kept when what is appended to the command trace keeps the monitor settled. -/
theorem State.WireInv.of_commandTrace {s t : State} (h : s.WireInv) (hb : t.build = s.build) {es : List Event}
    (hes : KeepsWire s.build es) (ht : commandTrace t.trace = commandTrace s.trace ++ es) : t.WireInv := by
  have hs : (Wire.start s.build).Reaches s.build (commandTrace s.trace) (Wire.Settled s.build) :=
    Wire.reaches_commandTrace.2 (State.wireInv_iff.1 h)
  rw [State.wireInv_iff, hb, ← Wire.reaches_commandTrace, ht]
  exact hs.append hes

theorem State.WireInv.environment {s : State} (h : s.WireInv) : s.environment.WireInv :=
  h.of_commandTrace rfl WireTakes.nil (by simp)

theorem State.WireInv.raise {s : State} (h : s.WireInv) (c : Cause) (w0 : Word) : (s.raise c w0).WireInv :=
  h.of_commandTrace rfl (fun _ hx => .cons rfl (.nil hx)) (commandTrace_append s.trace [.fault c])

theorem BodyCase.wireInv {i : Instr} {s t : State} (h : BodyCase i s t) (hT : s.build.tBitNs ≤ s.build.tLeNs)
    (hs : s.WireInv) : t.WireInv := by
  obtain ⟨-, -, hb, -⟩ := h.keeps
  cases h with
  | wire as hwb => exact hs.of_commandTrace hb (hwb.keepsWire hT) (commandTrace_play s as)
  | configured ndev width =>
    exact hs.of_commandTrace hb (keepsWire_initActions hT _ _) (commandTrace_play (s.setConfig ndev width) _)
  | stored m => exact hs

/-- Settles O33, by what a step can answer. -/
theorem stepKeepsTheWireOrderings : Obligations.StepKeepsTheWireOrderings := by
  unfold Obligations.StepKeepsTheWireOrderings
  intro s t hT hs h
  rcases step_next_cases h with rfl | ⟨c, w0, rfl⟩ | ⟨i, hb⟩
  · exact hs.environment
  · exact hs.environment.raise c w0
  · exact hb.wireInv hT hs.environment

-- The observer after a clear (R150, R193)

/-- `sr` after `m` zeros are shifted in: they stand at the near end, and as many bits leave at the far end (R193). -/
def pushZeros (m : Nat) (sr : List (Option Level)) : List (Option Level) :=
  (List.replicate m (some false) ++ sr).take sr.length

@[simp] theorem length_pushZeros (m : Nat) (sr : List (Option Level)) : (pushZeros m sr).length = sr.length := by
  simp [pushZeros]

theorem take_append_take {α : Type} (xs ys : List α) (l : Nat) : (xs ++ ys.take l).take l = (xs ++ ys).take l := by
  simp [List.take_append, List.take_take]

theorem pushZeros_pushZeros (k m : Nat) (sr : List (Option Level)) :
    pushZeros k (pushZeros m sr) = pushZeros (k + m) sr := by
  rw [pushZeros, length_pushZeros, pushZeros, take_append_take, pushZeros, List.replicate_add, List.append_assoc]

theorem pushZeros_length (sr : List (Option Level)) : pushZeros sr.length sr = List.replicate sr.length (some false) :=
  List.take_left' List.length_replicate

/-- One round of a clear: the zeros enter `sr`, and the latch copies it. -/
theorem Chain.run_clearRound (c : Chain) (m : Nat) :
    c.run (List.replicate m (.shift false) ++ [.lePulse 1]) =
      some { c with sr := pushZeros m c.sr, hold := pushZeros m c.sr } := by
  have hzeros : c.run (List.replicate m (.shift false)) = some { c with sr := pushZeros m c.sr } := by
    simpa [pushZeros] using c.run_shifts (List.replicate m false)
  rw [Chain.run_append, hzeros]
  rfl

theorem Chain.run_clearRounds (c : Chain) (m k : Nat) :
    c.run ((List.range (k + 1)).flatMap fun _ => List.replicate m (.shift false) ++ [.lePulse 1]) =
      some { c with sr := pushZeros ((k + 1) * m) c.sr, hold := pushZeros ((k + 1) * m) c.sr } := by
  induction k with
  | zero => simpa using c.run_clearRound m
  | succ k ih =>
    rw [List.range_succ, List.flatMap_append, Chain.run_append, ih, Option.bind_some, List.flatMap_singleton,
      Chain.run_clearRound, pushZeros_pushZeros, Nat.add_comm m, ← Nat.succ_mul]

/-- Settles O49: the rounds fill `sr` with zeros and copy it to `hold`, and the commit copies `hold` to `out`. -/
theorem observerIsZeroAfterClear : Obligations.ObserverIsZeroAfterClear := by
  unfold Obligations.ObserverIsZeroAfterClear
  intro b n w c p hw hdclk hle hn hlen
  obtain ⟨-, -, hevents, -⟩ := sends_clearBody hw n w p ⟨hdclk, hle⟩
  obtain ⟨k, rfl⟩ := Nat.exists_eq_add_of_le' hn
  have hfull : pushZeros ((k + 1) * (16 * w)) c.sr = List.replicate ((k + 1) * 16 * w) (some false) := by
    rw [← Nat.mul_assoc, ← hlen, pushZeros_length]
  rw [hevents, Chain.run_append, Chain.run_clearRounds, hfull]
  rfl

-- The observer after a raw command (R193, R194)

/-- Settles O51: the shifted bits by `Chain.run_shifts`, and one observer step for a pulse. -/
theorem observerOnRawCommands : Obligations.ObserverOnRawCommands := by
  unfold Obligations.ObserverOnRawCommands
  intro b c p hdclk hle
  have hpulse (n : Nat) : protocolFrom false p (actionEvents (lePulse b n)) = [.lePulse n] := by
    obtain ⟨-, -, hevents, -⟩ := sends_lePulse b n p ⟨hdclk, hle⟩
    exact hevents
  refine ⟨fun v w => ?_, ?_, ?_, fun n h1 h3 => ?_⟩
  · obtain ⟨-, -, hevents, -⟩ := sends_shiftValue b v w p ⟨hdclk, hle⟩
    have hbits : (List.range w).map (fun i => ProtoEvent.shift (v.testBit (w - 1 - i))) =
        (valueBits w v).map .shift := by
      rw [valueBits, List.map_map]
      rfl
    rw [hevents, hbits, Chain.run_shifts, reverse_valueBits, List.map_map]
    rfl
  · rw [hpulse]
    rfl
  · rw [hpulse]
    rfl
  · rw [hpulse, Chain.run, Chain.observe, if_neg h1, if_neg h3]

end Sys2Proof.Machine

/-! Proofs for the statements about contract violations (60_exceptions.md): what fault entry writes, the halted phase, and
the Bus Driver commands before INIT. -/

namespace Sys2Proof.Machine

-- Fault entry (R207)

/-- A command that sets FAULT took fault entry with its own first word: no body sets FAULT. -/
theorem exec_sets_fault {i : Instr} {s t : State} (hf : s.faulted = false) (ht : t.faulted = true)
    (h : exec i s = .next t) : ∃ c, t = s.raise c i.firstWord := by
  rcases exec_next_cases h with rfl | hraise | hb
  · exact absurd (hf.symm.trans ht) Bool.false_ne_true
  · exact hraise
  · obtain ⟨hkept, -⟩ := hb.keeps
    exact absurd (hf.symm.trans (hkept.symm.trans ht)) Bool.false_ne_true

/-- An illegal word is a violation by itself (R100). -/
theorem execIllegal_not_halted {s : State} (hf : s.faulted = false) (w0 : Word) :
    execIllegal w0 s = .next (s.raise .illegal w0) := accept_violation hf rfl

/-- The codes of R208, cause by cause. -/
theorem code_mem_list (c : Cause) :
    (c, c.code) ∈ [(Cause.uninit, 1#3), (.reinit, 2#3), (.config, 3#3), (.index, 4#3), (.range, 5#3),
      (.unwritten, 6#3), (.illegal, 7#3)] := by
  cases c <;> decide

/-- Settles O28: whatever sets FAULT is `State.raise`, which writes the four fields R207 names; the lines idle at the
command boundary before it are idle after it. -/
theorem faultEntryIsPrecise : Obligations.FaultEntryIsPrecise := by
  unfold Obligations.FaultEntryIsPrecise
  intro s t w0 hf ht h
  obtain ⟨c, rfl⟩ : ∃ c, t = s.raise c w0 := by
    rcases h with ⟨i, hexec, rfl⟩ | hexec
    · exact exec_sets_fault hf ht hexec
    · cases (execIllegal_not_halted hf w0).symm.trans hexec
      exact ⟨.illegal, rfl⟩
  refine ⟨c, rfl, code_mem_list c, rfl, rfl, rfl, rfl, rfl, s.raise_initDone c w0, s.raise_gclkEn c w0, rfl, rfl, rfl,
    rfl, rfl, fun hs hi => ?_⟩
  obtain ⟨hinit, -⟩ := hs.raise c w0
  obtain ⟨-, hdclk, hle, -⟩ := hinit hi
  exact ⟨hdclk, hle⟩

-- The halted phase (R212)

/-- Settles O29: FAULT is the first check of every command and word, a halted step is the environment's move, and the
reset event is power-on. -/
theorem haltedControllerStaysHalted : Obligations.HaltedControllerStaysHalted := by
  unfold Obligations.HaltedControllerStaysHalted
  intro s hf
  exact ⟨fun i => exec_halted i s hf, fun _ => accept_halted hf,
    ⟨s.environment, step_halted hf, hf, sameButGclk_environment s, gclkByGenerator_environment s⟩,
    powerOn_faulted s.build s.prog⟩

-- Before INIT (R206 check 2)

/-- Settles O23: the seven commands are the Bus Driver's, and none of them is INIT. -/
theorem uninitialisedCommandsFault : Obligations.UninitialisedCommandsFault := by
  unfold Obligations.UninitialisedCommandsFault
  intro s ⟨hi, hf⟩ i h
  have hkind : i.isFrameBuffer = false ∧ ∀ ndev width, i ≠ .init ndev width := by
    rcases h with rfl | rfl | rfl | rfl | ⟨b, rfl⟩ | ⟨v, w, rfl⟩ | ⟨v, rfl⟩ <;> exact ⟨rfl, nofun⟩
  obtain ⟨hb, hinit⟩ := hkind
  exact exec_busDriver_uninit hf hi hb hinit

end Sys2Proof.Machine
